-- ==== Sys2Proof/Word.lean ====
section
/-! DEFINITION. The bit-vector types of the block (00_scope.md R10): bytes, 16-bit values and 32-bit bus words. -/

namespace Sys2Proof

/-- `u8` of the spec. -/
abbrev Byte := BitVec 8

/-- `u16` of the spec: a CRC, a frame counter, a payload size. -/
abbrev Half := BitVec 16

/-- `u32` of the spec: a register and the host bus data width (00_scope.md R9). -/
abbrev Word := BitVec 32

end Sys2Proof
end

