-- ==== Sys2Proof/Syntax.lean ====
section
/-! DEFINITION. The command set: one constructor for each row of spec/opcode_table.json (30_encoding.md R76).
No command carries an operand field (R73): operands come from registers sampled at acceptance. -/

namespace Sys2Proof

inductive Instr where
  /-- NOP, OP 0x0 (40_crc_engine.md R87). -/
  | nop
  /-- CRC_INIT, OP 0x1 (40_crc_engine.md R88). -/
  | crcInit
  /-- CRC_BYTE, OP 0x2 (40_crc_engine.md R89). -/
  | crcByte
  /-- CRC_SPAN, OP 0x3 (40_crc_engine.md R90). -/
  | crcSpan
  /-- PARSE, OP 0x4 (41_frame_parser.md R105). -/
  | parse
deriving DecidableEq, Repr

end Sys2Proof
end

