-- ==== Sys2Proof/WellFormed.lean ====
section
/-! DEFINITION. Which command words are legal (30_encoding.md R66). A command of `Instr` has no operand that could be
out of range (R73), so the check of an instruction as syntax is the check of the word that stands for it: the two
clauses of R66, RSVD = 0 and OP in 0x0 to 0x4. -/

namespace Sys2Proof

/-- RSVD, bits [31:4] of a command word, must be 0 (30 R66). -/
def CommandWord.rsvdZero (w : Word) : Bool := w.extractLsb' 4 28 == 0

/-- OP, bits [3:0] of a command word, selects one of the five commands (30 R66, R76). -/
def CommandWord.opAssigned (w : Word) : Bool := (w.extractLsb' 0 4).toNat ≤ 4

/-- "A word is a legal command exactly when RSVD = 0 and OP is in {0x0, 0x1, 0x2, 0x3, 0x4}" (30 R66). -/
def CommandWord.legal (w : Word) : Bool := CommandWord.rsvdZero w && CommandWord.opAssigned w

/-- Every instruction is well formed as a term: no constructor has a field (30 R73). -/
def Instr.wellFormed : Instr → Bool
  | .nop => true
  | .crcInit => true
  | .crcByte => true
  | .crcSpan => true
  | .parse => true

end Sys2Proof
end

