-- ==== Sys2Proof/Decode.lean ====
section
/-! DEFINITION. The decoder of a command word and the encoder (30_encoding.md R66, R76, R77, R79). A command is one
32-bit bus value, so the decoder takes a word and not a byte string: registers are words, not byte arrays
(20_memory.md R51). -/

namespace Sys2Proof

/-- Why a word is no command (30 R77). Both reasons raise ILLEGAL_CMD. -/
inductive DecodeError where
  /-- RSVD, bits [31:4], is not 0. -/
  | reservedBits
  /-- OP is in 0x5 to 0xF. -/
  | reservedOp
deriving DecidableEq, Repr

/-- The opcode map of 30 R76. -/
def decodeOp (op : BitVec 4) : Except DecodeError Instr :=
  match op.toNat with
  | 0x0 => .ok .nop
  | 0x1 => .ok .crcInit
  | 0x2 => .ok .crcByte
  | 0x3 => .ok .crcSpan
  | 0x4 => .ok .parse
  | _ => .error .reservedOp

/-- The command a word stands for, or the reason it is none (30 R66, R77). -/
def decode (w : Word) : Except DecodeError Instr :=
  if w.extractLsb' 4 28 = 0 then decodeOp (w.extractLsb' 0 4) else .error .reservedBits

/-- The OP code of a command (30 R76). -/
def opCode : Instr → BitVec 4
  | .nop => 0x0
  | .crcInit => 0x1
  | .crcByte => 0x2
  | .crcSpan => 0x3
  | .parse => 0x4

/-- The word of a command: OP in bits [3:0], RSVD = 0 in bits [31:4] (30 R66). -/
def encode (i : Instr) : Word := 0#28 ++ opCode i

/-- The host's way into the decoder. A command is exactly one 32-bit word (30 R79): an instruction of fewer bits is
that word with zeros above, and there is none of more. -/
def decodeTableWord (nbits w : Nat) : Option Instr :=
  if nbits ≤ 32 then (decode (BitVec.ofNat 32 (w % 2 ^ nbits))).toOption else none

end Sys2Proof
end

