-- ==== Sys2Proof/Config.lean ====
section
/-! DEFINITION. What an implementation fixes (00_scope.md R8, R9) and the free values the spec calls `draw()` (R12). -/

namespace Sys2Proof

/-- The parameters of 00_scope.md R8 that a transaction can observe. They are arguments of the model: a state
carries them, no step changes them, and a claim about every state is a claim about every choice of them (log 1).
CMD_LATENCY is the place of the engine's turn in the schedule (log 3), and BUS_PROTOCOL has no effect at
transaction level (92_eei_decisions.md D1). -/
structure Config where
  /-- BASE: the bus byte address of offset 0. -/
  base : Nat
  /-- BUF_BYTES: the size of DATA in bytes. -/
  bufBytes : Nat
  /-- TABLE_INIT_LATENCY: 0 for a ROM table; otherwise the table is generated after reset (70 R143). -/
  tableInitLatency : Nat
deriving DecidableEq, Repr

namespace Config

/-- The legal values of 00_scope.md R8. -/
abbrev Legal (c : Config) : Prop :=
  c.base % 0x80000 = 0 ∧ 65545 ≤ c.bufBytes ∧ c.bufBytes ≤ 131072

/-- DESIGN CHOICE (log 1): the parameters of `State.reset`. BUF_BYTES is the spec's recommended value; BASE = 0 and
a ROM table are the model's. -/
def chosen : Config := { base := 0, bufBytes := 65545, tableInitLatency := 0 }

/-- `draw()` for one byte of a buffer: a free value, one for each number (00 R12, 10 R39). It has no body. -/
opaque freeByte : Nat → Byte

/-- `draw()` for one register word (10 R44, R45): a free value, one for each number. It has no body. -/
opaque freeWord : Nat → Word

end Config

/-- `MAX_PAYLOAD_SIZE` (00_scope.md R9). -/
def maxPayloadSize : Nat := 65535

/-- `HEADER_SIZE` (00_scope.md R9). -/
def headerSize : Nat := 8

/-- `CRC_SIZE` (00_scope.md R9). -/
def crcSize : Nat := 2

/-- `MIN_FRAME_SIZE` (00_scope.md R9). -/
def minFrameSize : Nat := 10

/-- The block's address region in bytes (00_scope.md R9, 20_memory.md R47). -/
def regionBytes : Nat := 0x80000

end Sys2Proof
end

