-- ==== Sys2Proof/Machine/State.lean ====
section
/-! DEFINITION. The state of the block (10_state.md R43), the host's side of it as data (00_scope.md R14), and the
state after reset (10_state.md R42). -/

namespace Sys2Proof.Machine

/-- A byte buffer: the WRITTEN bytes, as (index, byte) pairs with strictly rising indexes. An index that is not
listed is marked unwritten (10 R39). -/
abbrev Memory := List Host.Cell

/-- The values of STATUS.ERRCODE that occur (30 R75). -/
inductive ErrCode where
  | noError
  | illegalCmd
  | windowRange
  | busyWrite
deriving DecidableEq, Repr

/-- The values of RESULT that occur (30 R74). `noResult` is NONE: no PARSE has completed since reset. -/
inductive ParseResult where
  | noResult
  | success
  | insufficientData
  | invalidPreamble
  | invalidHeaderCrc
  | invalidPayloadCrc
deriving DecidableEq, Repr

/-- An accepted command with the operands sampled at acceptance (10 R38). The OP is kept as the command it
stands for (log 6). -/
structure Command where
  op : Instr
  start : Word
  len : Word
  din : Byte
deriving DecidableEq, Repr

/-- The pending record (10 R38, R43). -/
inductive Pending where
  /-- Table initialisation after reset (70 R143). -/
  | init
  /-- An accepted command. -/
  | cmd (c : Command)
deriving DecidableEq, Repr

/-- What happens next, from outside the block or by the engine (00 R14, 20 R46). -/
inductive Event where
  /-- The host's `MemRead(addr, n)`. -/
  | read (addr n : Nat)
  /-- The host's `MemWrite(addr, n, v)`; an n-byte value is the low 8n bits of `v`. -/
  | write (addr n : Nat) (v : Word)
  /-- The engine takes its step now (log 3). -/
  | engine
  /-- The reset input `rst` is asserted and released (70 R141). -/
  | rst
deriving DecidableEq, Repr

/-- The state. The fields from `ctrlIe` to `pending` are those of 10 R43; `cfg` holds the parameters of 00 R8;
the last three are the model's own (log 2, 3, 11). -/
structure State where
  /-- Parameters; no step changes them (log 1). -/
  cfg : Config
  /-- CTRL.IE (10 R19). -/
  ctrlIe : Bool
  /-- STATUS.BUSY (10 R21). -/
  busy : Bool
  /-- STATUS.DONE (10 R22). -/
  done : Bool
  /-- STATUS.ERR (10 R23). -/
  err : Bool
  /-- STATUS.ERRCODE (10 R24). -/
  errcode : ErrCode
  /-- START (10 R27). -/
  start : Word
  /-- LEN (10 R28). -/
  len : Word
  /-- DIN[7:0] (10 R29). -/
  din : Byte
  /-- CRC[15:0], the accumulator (10 R30). -/
  crc : Half
  /-- RESULT (10 R31). -/
  result : ParseResult
  /-- FRAME_COUNTER[15:0] (10 R32). -/
  frameCounter : Half
  /-- PAYLOAD_SIZE[15:0] (10 R32). -/
  payloadSize : Half
  /-- HDR_CRC[15:0], RX (10 R32). -/
  hdrRx : Half
  /-- HDR_CRC[31:16], CALC (10 R32). -/
  hdrCalc : Half
  /-- PAY_CRC[15:0], RX (10 R32). -/
  payRx : Half
  /-- PAY_CRC[31:16], CALC (10 R32). -/
  payCalc : Half
  /-- CONSUMED[16:0] (10 R32). -/
  consumed : BitVec 17
  /-- The written bytes of DATA (10 R33, R39). -/
  data : Memory
  /-- The written bytes of PAYLOAD_OUT (10 R34, R39). -/
  payloadOut : Memory
  /-- The pending command (10 R38). -/
  pending : Option Pending
  /-- What is still to happen, oldest first. -/
  events : List Event
  /-- The values the host's reads returned, newest first. -/
  responses : List Word
  /-- The number of the next free value. -/
  draws : Nat
deriving DecidableEq, Repr

/-- What stops the machine. No command raises one. -/
inductive Fault where
  /-- Raised by a host transaction whose address is outside [BASE, BASE + 0x80000), which "does not belong to the
  block" (20 R47). Safe: the block goes on unaware (log 9). -/
  | addressOutsideBlock
deriving DecidableEq, Repr

/-- What the model gives no meaning to. -/
inductive Refusal where
  /-- Raised by an arm of `exec` that has no meaning yet. Safe. -/
  | notModelled (mnemonic : String)
  /-- Raised by a host transaction of a width or alignment that 20 R48 does not allow: "The spec gives no meaning to
  such an access, and a model refuses it" (20 R49, 93 U1). Safe (log 10). -/
  | accessNotAllowed
  /-- Raised by the host agent of HostProgram, never by `step`, on a `sh` or `sb` line outside DATA: the host assembly has
  them "DATA only" (30 R80). The bus transaction itself is no error (20 R48). Safe (log 16). -/
  | narrowStoreOutsideData
deriving DecidableEq, Repr

/-- The values of 10 R42 for given parameters: what `rst` leaves (70 R141). -/
def State.resetWith (cfg : Config) : State where
  cfg := cfg
  ctrlIe := false
  busy := decide (0 < cfg.tableInitLatency)
  done := false
  err := false
  errcode := .noError
  start := 0
  len := 0
  din := 0
  crc := 0xFFFF
  result := .noResult
  frameCounter := 0
  payloadSize := 0
  hdrRx := 0
  hdrCalc := 0
  payRx := 0
  payCalc := 0
  consumed := 0
  data := []
  payloadOut := []
  pending := if 0 < cfg.tableInitLatency then some .init else none
  events := []
  responses := []
  draws := 0

/-- The block right after reset, with the parameters of `Config.chosen` (log 1) and nothing for it to do. -/
def State.reset : State := State.resetWith Config.chosen

end Sys2Proof.Machine
end

