-- ==== Sys2Proof/Machine/Crc.lean ====
section
/-! DEFINITION. The CRC functions and the constant lookup table (40_crc_engine.md R82 to R86, R92). -/

namespace Sys2Proof.Machine

/-- The polynomial of CRC-16/CCITT-FALSE (00 R2). -/
def polynomial : Half := 0x1021

/-- The initial value of CRC-16/CCITT-FALSE (00 R2, 40 R84). -/
def crcInitValue : Half := 0xFFFF

/-- One round of the table generation (40 R82). -/
def genRound (c : Half) : Half := if c.getLsbD 15 then (c <<< 1) ^^^ polynomial else c <<< 1

/-- `n` rounds. -/
def genRounds : Nat → Half → Half
  | 0, c => c
  | n + 1, c => genRounds n (genRound c)

/-- `table[i]` (40 R82): a constant for the whole life of the block (40 R86). -/
def tableEntry (i : Byte) : Half := genRounds 8 (i.setWidth 16 <<< 8)

/-- `crc_update(c, b)` (40 R83). -/
def crcUpdate (c : Half) (b : Byte) : Half := (c <<< 8) ^^^ tableEntry ((c >>> 8).setWidth 8 ^^^ b)

/-- `crc16(s)` (40 R84). -/
def crc16 (w : List Byte) : Half := w.foldl crcUpdate crcInitValue

/-- The bit-serial, MSB-first step for one byte (40 R92). Not used by the machine: it is what the table form is
compared with. -/
def crcBitSerial (c : Half) (b : Byte) : Half := genRounds 8 (c ^^^ (b.setWidth 16 <<< 8))

end Sys2Proof.Machine
end

