-- ==== Sys2Proof/Machine/Flags.lean ====
section
/-! DEFINITION. The status word, the codes of errors and outcomes, and the interrupt output (10_state.md R21 to R25,
R40; 30_encoding.md R74, R75; 60_exceptions.md R133). -/

namespace Sys2Proof.Machine

/-- STATUS.ERRCODE (30 R75). -/
def errCodeBits : ErrCode → BitVec 4
  | .noError => 0
  | .illegalCmd => 1
  | .windowRange => 2
  | .busyWrite => 3

/-- RESULT[2:0] (30 R74). -/
def parseResultBits : ParseResult → BitVec 3
  | .noResult => 0
  | .success => 1
  | .insufficientData => 2
  | .invalidPreamble => 3
  | .invalidHeaderCrc => 4
  | .invalidPayloadCrc => 5

/-- The STATUS word: [0] BUSY, [1] DONE, [2] ERR, [3] 0, [7:4] ERRCODE, [31:8] 0 (10 R17, R25). -/
def statusWord (s : State) : Word :=
  0#24 ++ errCodeBits s.errcode ++ 0#1 ++ BitVec.ofBool s.err ++ BitVec.ofBool s.done ++ BitVec.ofBool s.busy

/-- The interrupt output: a level, CTRL.IE & (DONE | ERR), at every moment (10 R40, 60 R133). -/
def irq (s : State) : Bool := s.ctrlIe && (s.done || s.err)

/-- Table initialisation is in progress (70 R143). -/
def initPending (s : State) : Bool :=
  match s.pending with
  | some .init => true
  | some (.cmd _) => false
  | none => false

end Sys2Proof.Machine
end

