-- ==== Sys2Proof/Machine/Ops.lean ====
section
/-! DEFINITION. The shared operations: bytes and words, the two byte buffers, raising and clearing a command error
(the block's only abnormal event), the pieces of acceptance and completion, and `rst`. -/

namespace Sys2Proof.Machine

/-- The low `n` bytes of a bus value, lowest address first (20 R50: `v[8k+7 : 8k]` at offset `i + k`). -/
def bytesOfWord (n : Nat) (v : Word) : List Byte :=
  (List.range n).map fun k => v.extractLsb' (8 * k) 8

/-- The bus value of bytes in address order, byte k in bits `[8k+7 : 8k]` (20 R50). -/
def wordOfBytes : List Byte → Word
  | [] => 0
  | b :: bs => b.setWidth 32 ||| (wordOfBytes bs <<< 8)

/-- What an index that is not listed reads as: no value, the byte is marked unwritten (10 R39). A reader turns it
into a free value, `draw()` (20 R65). -/
def Memory.unlisted : Option Byte := none

/-- The byte at index `i`, if it has been written. -/
def Memory.read (m : Memory) (i : Nat) : Option Byte :=
  match m with
  | [] => Memory.unlisted
  | c :: rest => if c.1 = i then some c.2 else Memory.read rest i

/-- Bytes as cells, from index `i` up. -/
def Memory.cells (i : Nat) : List Byte → Memory
  | [] => []
  | b :: bs => (i, b) :: Memory.cells (i + 1) bs

/-- Store the bytes `bs` at indexes `i`, `i+1`, ..., and mark them written (10 R39). Every other byte and mark stays. -/
def Memory.store (m : Memory) (i : Nat) (bs : List Byte) : Memory :=
  match bs with
  | [] => m
  | b :: rest =>
    m.filter (fun c => c.1 < i) ++
      (Memory.cells i (b :: rest) ++ m.filter (fun c => i + (b :: rest).length ≤ c.1))

/-- The canonical form of a buffer: indexes strictly rising. No listed byte can equal what an unlisted index reads
as, because that is no value. -/
abbrev Memory.Wf (m : Memory) : Prop := m.Pairwise (fun c d => c.1 < d.1)

/-- Every listed index is below `n`, the size of the buffer. -/
abbrev Memory.Below (m : Memory) (n : Nat) : Prop := ∀ c ∈ m, c.1 < n

/-- `raise CmdError(code)`: STATUS.ERR <- 1, STATUS.ERRCODE <- code, "and nothing else" (60 R126). This is all the
block has for trap entry (60 R135): nothing is saved, no mode changes, no control transfer happens. -/
def raiseCmdError (code : ErrCode) (s : State) : State := { s with err := true, errcode := code }

/-- A write of STATUS while BUSY = 0, the block's "return" (60 R136): bit 1 clears DONE, bit 2 clears ERR and
ERRCODE, both in one write (10 R22 to R25). -/
def writeStatus (v : Word) (s : State) : State :=
  { s with
    done := s.done && !v.getLsbD 1
    err := s.err && !v.getLsbD 2
    errcode := if v.getLsbD 2 then .noError else s.errcode }

/-- The operands of a command as the registers hold them (10 R38, 30 R73). -/
def sampleOperands (i : Instr) (s : State) : Command := { op := i, start := s.start, len := s.len, din := s.din }

/-- An accepted command: pending <- some {op, START, LEN, DIN}, BUSY <- 1, DONE <- 0 (60 R128). -/
def acceptCommand (i : Instr) (s : State) : State :=
  { s with pending := some (.cmd (sampleOperands i s)), busy := true, done := false }

/-- The common end of every completion: BUSY <- 0, DONE <- 1, pending <- none (60 R129). -/
def finishCommand (s : State) : State := { s with busy := false, done := true, pending := none }

/-- The engine's one INIT step: BUSY <- 0, pending <- none, every other register unchanged (70 R143). -/
def finishInit (s : State) : State := { s with busy := false, pending := none }

/-- `rst`: every piece of the block's state takes its reset value (70 R141, R142). The parameters stay, and so do
the model's own fields: what is still to happen, what the host has read, and the count of free values, so
that a byte unwritten again reads as a fresh one (log 13). -/
def hardReset (s : State) : State :=
  { State.resetWith s.cfg with events := s.events, responses := s.responses, draws := s.draws }

end Sys2Proof.Machine
end

