-- ==== Sys2Proof/Machine/Operands.lean ====
section
/-! DEFINITION. Operand forms: which commands take a window, when a window is in range, and how the engine reads the
window's bytes (10_state.md R38, 20_memory.md R65, 30_encoding.md R73, 60_exceptions.md R128). -/

namespace Sys2Proof.Machine

/-- `le16(s, i) = zext_16(s[i]) | (zext_16(s[i+1]) << 8)` (00 R11). -/
def le16 (w : List Byte) (i : Nat) : Half :=
  (w.getD i 0).setWidth 16 ||| ((w.getD (i + 1) 0).setWidth 16 <<< 8)

/-- `s[a..b)` (00 R11). -/
def slice (w : List Byte) (a b : Nat) : List Byte := (w.drop a).take (b - a)

/-- CRC_SPAN and PARSE take the window DATA[START .. START+LEN); the other commands take none (30 R73). -/
def usesWindow : Instr → Bool
  | .nop => false
  | .crcInit => false
  | .crcByte => false
  | .crcSpan => true
  | .parse => true

/-- START + LEN <= BUF_BYTES, an unbounded sum (60 R128, 00 R10). -/
def windowInRange (s : State) : Bool := s.start.toNat + s.len.toNat ≤ s.cfg.bufBytes

/-- `EngRead(i)`: the byte if it is written, and otherwise the free value of number `j` (20 R65). -/
def engRead (s : State) (j i : Nat) : Byte :=
  match Memory.read s.data i with
  | some b => b
  | none => Config.freeByte j

/-- The window of an accepted command: `w[j] = EngRead(START + j)` in increasing j, each byte read once, so each
unwritten byte has a free value of its own (20 R65, 40 R95, 41 R105; log 14). -/
def window (s : State) (c : Command) : List Byte :=
  (List.range c.len.toNat).map fun j => engRead s (s.draws + j) (c.start.toNat + j)

end Sys2Proof.Machine
end

