-- ==== Sys2Proof/Machine/Bus.lean ====
section
/-! DEFINITION. The host's side of the block: the address map (10_state.md R17), allowed accesses (20_memory.md R48),
what a read returns and what a write does (R50 to R55, 10 R44, R45, 60 R127, R128), and what the machine does
next. `Step` only calls `nextAction`. -/

namespace Sys2Proof.Machine

/-- The registers of 10 R17. -/
inductive Reg where
  | id | ctrl | status | cmd | start | len | din | crc | result | frameCounter | payloadSize | hdrCrc | payCrc
  | consumed | bufSize
deriving DecidableEq, Repr

/-- What stands at an offset of the region (10 R17, 20 R47). -/
inductive Region where
  | reg (r : Reg)
  | table (i : Byte)
  | data (i : Nat)
  | payloadOut (i : Nat)
  | reserved
deriving DecidableEq, Repr

/-- The offset of each register (10 R17). -/
def regOffset : Reg → Nat
  | .id => 0x000
  | .ctrl => 0x004
  | .status => 0x008
  | .cmd => 0x00C
  | .start => 0x010
  | .len => 0x014
  | .din => 0x018
  | .crc => 0x01C
  | .result => 0x020
  | .frameCounter => 0x024
  | .payloadSize => 0x028
  | .hdrCrc => 0x02C
  | .payCrc => 0x030
  | .consumed => 0x034
  | .bufSize => 0x038

/-- Every register, in the order of 10 R17. -/
def allRegs : List Reg :=
  [.id, .ctrl, .status, .cmd, .start, .len, .din, .crc, .result, .frameCounter, .payloadSize, .hdrCrc, .payCrc,
    .consumed, .bufSize]

/-- The register at an offset below 0x400; the other offsets are reserved (10 R17, R37). -/
def regAt (off : Nat) : Region :=
  match allRegs.find? fun r => regOffset r == off with
  | some r => .reg r
  | none => .reserved

/-- The region of an offset (10 R17). -/
def regionOf (off : Nat) : Region :=
  if off < 0x400 then regAt off
  else if off < 0x800 then .table (BitVec.ofNat 8 ((off - 0x400) / 4))
  else if off < 0x20000 then .reserved
  else if off < 0x40000 then .data (off - 0x20000)
  else if off < 0x50000 then .payloadOut (off - 0x40000)
  else .reserved

/-- The table of 20 R48: bytes, halves and words, naturally aligned, in the two buffers; aligned words elsewhere. -/
def accessAllowed (off n : Nat) : Bool :=
  if 0x20000 ≤ off && off < 0x50000 then (n == 1 || n == 2 || n == 4) && off % n == 0
  else n == 4 && off % 4 == 0

/-- The address belongs to the block (20 R47). -/
def inBlock (s : State) (addr : Nat) : Bool := s.cfg.base ≤ addr && addr < s.cfg.base + regionBytes

/-- One byte of DATA as the host reads it: 0 at and above BUF_BYTES (20 R53), a free value where unwritten (R65). -/
def dataByte (s : State) (j i : Nat) : Byte :=
  if i < s.cfg.bufBytes then engRead s j i else 0

/-- One byte of PAYLOAD_OUT as the host reads it: byte 65535 is reserved and reads 0; a free value where unwritten
(20 R65), and at every index while BUSY = 1 (70 R147, 10 R44; log 8). -/
def payloadByte (s : State) (j i : Nat) : Byte :=
  if i < maxPayloadSize then
    if s.busy then Config.freeByte j
    else match Memory.read s.payloadOut i with
      | some b => b
      | none => Config.freeByte j
  else 0

/-- A result register as the host reads it: a free value while BUSY = 1, whether a command is pending (10 R44) or table
initialisation (70 R147; log 7, 8). -/
def resultWord (s : State) (v : Word) : Word := if s.busy then Config.freeWord s.draws else v

/-- What a read of a register returns (10 R17 to R36). -/
def regWord (s : State) : Reg → Word
  | .id => 0x0CFF0100
  | .ctrl => 0#31 ++ BitVec.ofBool s.ctrlIe
  | .status => statusWord s
  | .cmd => 0
  | .start => s.start
  | .len => s.len
  | .din => s.din.setWidth 32
  | .crc => resultWord s (s.crc.setWidth 32)
  | .result => resultWord s ((parseResultBits s.result).setWidth 32)
  | .frameCounter => resultWord s (s.frameCounter.setWidth 32)
  | .payloadSize => resultWord s (s.payloadSize.setWidth 32)
  | .hdrCrc => resultWord s (s.hdrCalc ++ s.hdrRx)
  | .payCrc => resultWord s (s.payCalc ++ s.payRx)
  | .consumed => resultWord s (s.consumed.setWidth 32)
  | .bufSize => BitVec.ofNat 32 s.cfg.bufBytes

/-- A TABLE word: the constant, or a free value during table initialisation (10 R35, R45). -/
def tableWord (s : State) (i : Byte) : Word :=
  if initPending s then Config.freeWord s.draws else (tableEntry i).setWidth 32

/-- What `MemRead(BASE + off, n)` returns (20 R46, R50, R51, R53), as a word with zeros above an n-byte value. -/
def readValue (s : State) (off n : Nat) : Word :=
  match regionOf off with
  | .reg r => regWord s r
  | .table i => tableWord s i
  | .data i => wordOfBytes ((List.range n).map fun k => dataByte s (s.draws + k) (i + k))
  | .payloadOut i => wordOfBytes ((List.range n).map fun k => payloadByte s (s.draws + k) (i + k))
  | .reserved => 0

/-- The host gets the value of its read. The block's own state does not change (20 R55); four numbers of free
values are set aside, so that no later read shares one (log 2). -/
def answerRead (v : Word) (s : State) : State := { s with responses := v :: s.responses, draws := s.draws + 4 }

/-- A write to DATA stores the bytes below BUF_BYTES and marks them written; the rest is ignored (20 R50, R53). -/
def writeData (i n : Nat) (v : Word) (s : State) : State :=
  { s with data := Memory.store s.data i ((bytesOfWord n v).take (s.cfg.bufBytes - i)) }

/-- A write to a register other than CMD while BUSY = 0 (20 R54): RW registers store their writable bits, STATUS
applies its W1C rules, read-only registers ignore it. -/
def writeReg (r : Reg) (v : Word) (s : State) : State :=
  match r with
  | .ctrl => { s with ctrlIe := v.getLsbD 0 }
  | .status => writeStatus v s
  | .start => { s with start := v }
  | .len => { s with len := v }
  | .din => { s with din := v.setWidth 8 }
  | .id | .cmd | .crc | .result | .frameCounter | .payloadSize | .hdrCrc | .payCrc | .consumed | .bufSize => s

/-- What the machine does next. -/
inductive Action where
  /-- A step that no command meaning takes part in. -/
  | done (s : State)
  /-- The meaning of a command runs: it is issued, or the engine completes it. -/
  | run (i : Instr) (s : State)
  | stop (r : Fault)
  | refuse (r : Refusal)
deriving DecidableEq, Repr

/-- A write of CMD while BUSY = 0 (60 R128): ILLEGAL_CMD, or the command is issued. -/
def issueWord (v : Word) (s : State) : Action :=
  match decode v with
  | .ok i => .run i s
  | .error _ => .done (raiseCmdError .illegalCmd s)

/-- An allowed write at an offset while BUSY = 0. -/
def writeIdle (off n : Nat) (v : Word) (s : State) : Action :=
  match regionOf off with
  | .reg .cmd => issueWord v s
  | .reg r => .done (writeReg r v s)
  | .data i => .done (writeData i n v s)
  | .table _ | .payloadOut _ | .reserved => .done s

/-- `MemWrite(addr, n, v)`. While BUSY = 1 every allowed write is ignored and raises BUSY_WRITE (60 R127). -/
def hostWrite (addr n : Nat) (v : Word) (s : State) : Action :=
  if inBlock s addr then
    if accessAllowed (addr - s.cfg.base) n then
      if s.busy then .done (raiseCmdError .busyWrite s) else writeIdle (addr - s.cfg.base) n v s
    else .refuse .accessNotAllowed
  else .stop .addressOutsideBlock

/-- `MemRead(addr, n)`. -/
def hostRead (addr n : Nat) (s : State) : Action :=
  if inBlock s addr then
    if accessAllowed (addr - s.cfg.base) n then .done (answerRead (readValue s (addr - s.cfg.base) n) s)
    else .refuse .accessNotAllowed
  else .stop .addressOutsideBlock

/-- The engine's turn. It never starts a step unless BUSY = 1 (00 R14): it completes the pending command (60 R129) or
ends table initialisation (70 R143). -/
def engineTurn (s : State) : Action :=
  if s.busy then
    match s.pending with
    | some (.cmd c) => .run c.op s
    | some .init => .done (finishInit s)
    | none => .done s
  else .done s

/-- The next event acts on the state without it. When nothing more is to come from outside, the engine has its
turn, so that an accepted command always completes (60 R129, 70 R153; log 3). -/
def nextAction (s : State) : Action :=
  match s.events with
  | [] => engineTurn s
  | .read addr n :: es => hostRead addr n { s with events := es }
  | .write addr n v :: es => hostWrite addr n v { s with events := es }
  | .engine :: es => engineTurn { s with events := es }
  | .rst :: es => .done (hardReset { s with events := es })

/-- `s` made ready to run the command word `w` next: the block is not busy, and the next event is the write of `w` to
CMD. -/
def issueNext (w : Word) (s : State) : State :=
  { s with busy := false, pending := none, events := .write (s.cfg.base + 0x00C) 4 w :: s.events }

end Sys2Proof.Machine
end

