-- ==== Sys2Proof/Machine/Command.lean ====
section
/-! DEFINITION. The life of a command, shared by the five meanings: acceptance (60_exceptions.md R128) and completion
(R129). -/

namespace Sys2Proof.Machine

/-- Acceptance of a command while BUSY = 0 (60 R128): a window command whose window is out of range raises
WINDOW_RANGE and starts nothing; otherwise the command is accepted. -/
def startCommand (i : Instr) (s : State) : State :=
  if usesWindow i && !windowInRange s then raiseCmdError .windowRange s else acceptCommand i s

/-- The two moments at which the block acts on a command (log 5). While BUSY = 0 it is issued: `startCommand`. While
it is the pending command the engine completes it: its effect on the sampled operands, then the common end. A
command issued while the block is busy with anything else is not decoded at all: BUSY_WRITE (60 R127, R132). -/
def runCommand (i : Instr) (effect : Command → State → State) (s : State) : Host.Outcome State Fault Refusal :=
  if s.busy then
    match s.pending with
    | some (.cmd c) =>
      if c.op = i then .next (finishCommand (effect c s)) else .next (raiseCmdError .busyWrite s)
    | some .init => .next (raiseCmdError .busyWrite s)
    | none => .next (raiseCmdError .busyWrite s)
  else .next (startCommand i s)

end Sys2Proof.Machine
end

