-- ==== Sys2Proof/Machine/CrcEngine.lean ====
section
/-! DEFINITION. The meanings of NOP, CRC_INIT, CRC_BYTE and CRC_SPAN (40_crc_engine.md R87 to R90). -/

namespace Sys2Proof.Machine

/-- NOP: "no state change beyond the common completion" (40 R87). -/
def execNop (s : State) : Host.Outcome State Fault Refusal :=
  runCommand .nop (fun _ s => s) s

/-- CRC_INIT: `CRC <- 0xFFFF` (40 R88). -/
def execCrcInit (s : State) : Host.Outcome State Fault Refusal :=
  runCommand .crcInit (fun _ s => { s with crc := crcInitValue }) s

/-- CRC_BYTE: `CRC <- crc_update(CRC, p.din)` (40 R89). -/
def execCrcByte (s : State) : Host.Outcome State Fault Refusal :=
  runCommand .crcByte (fun c s => { s with crc := crcUpdate s.crc c.din }) s

/-- CRC_SPAN: `CRC <- crc16(window)`, whatever the accumulator held (40 R90). -/
def execCrcSpan (s : State) : Host.Outcome State Fault Refusal :=
  runCommand .crcSpan (fun c s => { s with crc := crc16 (window s c), draws := s.draws + c.len.toNat }) s

end Sys2Proof.Machine
end

