-- ==== Sys2Proof/Machine/FrameParser.lean ====
section
/-! DEFINITION. The single-frame parse as a pure function (41_frame_parser.md R96 to R104) and the meaning of PARSE
(R105 to R111). -/

namespace Sys2Proof.Machine

/-- The output record of `parse_frame` (41 R96). -/
structure ParseOut where
  res : ParseResult
  fc : Half
  ps : Half
  hrx : Half
  hcalc : Half
  prx : Half
  pcalc : Half
  consumed : Nat
  payload : List Byte
deriving DecidableEq, Repr

/-- "Every field starts at 0 (or empty), and only the steps reached set it" (41 R96). -/
def ParseOut.blank (r : ParseResult) : ParseOut :=
  { res := r, fc := 0, ps := 0, hrx := 0, hcalc := 0, prx := 0, pcalc := 0, consumed := 0, payload := [] }

/-- `8 + payload_size + 2` (41 R102): a natural number, no wrap. -/
def frameLength (ps : Half) : Nat := headerSize + ps.toNat + crcSize

/-- Steps 6 and 7 (41 R103, R104): the payload CRC check and success. `o` holds the header fields. -/
def parsePayload (w : List Byte) (o : ParseOut) : ParseOut :=
  let payload := slice w headerSize (headerSize + o.ps.toNat)
  let o6 := { o with pcalc := crc16 payload, prx := le16 w (headerSize + o.ps.toNat) }
  if o6.pcalc ≠ o6.prx then { o6 with res := .invalidPayloadCrc }
  else { o6 with res := .success, consumed := frameLength o.ps, payload := payload }

/-- Steps 3, 4 and 5 (41 R100 to R102): the fields, the header CRC check and the completeness check. -/
def parseHeader (w : List Byte) : ParseOut :=
  let o4 := { ParseOut.blank .noResult with
    fc := le16 w 2, ps := le16 w 4, hcalc := crc16 (slice w 0 6), hrx := le16 w 6 }
  if o4.hcalc ≠ o4.hrx then { o4 with res := .invalidHeaderCrc }
  else if w.length < frameLength o4.ps then { o4 with res := .insufficientData }
  else parsePayload w o4

/-- `parse_frame(w)` (41 R97): the length check and the preamble check (R98, R99), then the rest. -/
def parseFrame (w : List Byte) : ParseOut :=
  if w.length < headerSize then ParseOut.blank .insufficientData
  else if w.getD 0 0 ≠ 0xFA ∨ w.getD 1 0 ≠ 0xCE then ParseOut.blank .invalidPreamble
  else parseHeader w

/-- The register writes of PARSE, "all of them at once" (41 R105, R106; 10 R32), and the payload copy on SUCCESS only
(41 R107). It writes neither DATA (R109) nor the accumulator (R111). -/
def writeParseOut (o : ParseOut) (s : State) : State :=
  { s with
    result := o.res
    frameCounter := o.fc
    payloadSize := o.ps
    hdrRx := o.hrx
    hdrCalc := o.hcalc
    payRx := o.prx
    payCalc := o.pcalc
    consumed := BitVec.ofNat 17 o.consumed
    payloadOut := if o.res = .success then Memory.store s.payloadOut 0 o.payload else s.payloadOut }

/-- PARSE (41 R105). -/
def execParse (s : State) : Host.Outcome State Fault Refusal :=
  runCommand .parse
    (fun c s => { writeParseOut (parseFrame (window s c)) s with draws := s.draws + c.len.toNat }) s

end Sys2Proof.Machine
end

