-- ==== Sys2Proof/Machine/Step.lean ====
section
/-! DEFINITION. One step: one host transaction, one engine step or one reset, each atomic (00_scope.md R14). -/

namespace Sys2Proof.Machine

def step (s : State) : Host.Outcome State Fault Refusal :=
  match nextAction s with
  | .done s' => .next s'
  | .run i s' => exec i s'
  | .stop r => .fault r
  | .refuse r => .refused r

/-- The block fetches nothing (10 R16): its commands are the words the host writes to CMD. So the place of the next
command is the next event, a 4-byte write to BASE + 0x00C, made to a block that is not busy (log 4). -/
def State.withFetchWord (s : State) (nbits w : Nat) : State := issueNext (BitVec.ofNat 32 (w % 2 ^ nbits)) s

end Sys2Proof.Machine
end

