-- ==== Sys2Proof/Machine/HostProgram.lean ====
section
/-! DEFINITION. The host bus assembly (30_encoding.md R80, R81) and a host agent that runs it beside the block. The
host's variables and its place in the program are the host's, not the block's: State does not hold them (log 16).
Labels and host variables are named by numbers. -/

namespace Sys2Proof.Machine

/-- Expressions over host variables. The rule gives `let` and the offsets no grammar: DESIGN CHOICE (log 16), the
operators are those that the spec's own programs use (95 P4), a sum, a difference and a maximum. -/
inductive HostExpr where
  | const (n : Nat)
  | var (x : Nat)
  | add (a b : HostExpr)
  | sub (a b : HostExpr)
  | max (a b : HostExpr)
deriving DecidableEq, Repr

/-- Conditions over host variables. The rule gives `if` no grammar: DESIGN CHOICE (log 16), the operators are those that
the spec's own programs use (95 P4), equal, at least, and the conjunction. -/
inductive HostCond where
  | eq (a b : HostExpr)
  | ge (a b : HostExpr)
  | and (c d : HostCond)
deriving DecidableEq, Repr

/-- One line of a host program (30 R80). Offsets are relative to BASE. -/
inductive HostLine where
  | sw (off v : HostExpr)
  | sh (off v : HostExpr)
  | sb (off v : HostExpr)
  | lw (rd : Nat) (off : HostExpr)
  | lbu (rd : Nat) (off : HostExpr)
  | poll (off mask val : HostExpr)
  | label (l : Nat)
  | ifGoto (c : HostCond) (l : Nat)
  | goto (l : Nat)
  | letVar (x : Nat) (e : HostExpr)
deriving DecidableEq, Repr

/-- The pseudo-instructions of 30 R81. Operands are expressions, evaluated when the line is issued (95 section 3). -/
inductive Pseudo where
  | nopCmd
  | crcInit
  | crcByte (b : HostExpr)
  | crcSpan (s l : HostExpr)
  | parse (s l : HostExpr)
  | wait
  | clrStatus
  | loadData (off : HostExpr) (bytes : List HostExpr)
deriving DecidableEq, Repr

/-- `load.data`: one byte write for each byte, the next one at `0x2_0000 + off + k` (30 R81). -/
def loadLines (off : HostExpr) (k : Nat) : List HostExpr → List HostLine
  | [] => []
  | b :: bs => .sb (.add (.add (.const 0x20000) off) (.const k)) b :: loadLines off (k + 1) bs

/-- The expansions of 30 R81. -/
def expand : Pseudo → List HostLine
  | .nopCmd => [.sw (.const 0x00C) (.const 0x0)]
  | .crcInit => [.sw (.const 0x00C) (.const 0x1)]
  | .crcByte b => [.sw (.const 0x018) b, .sw (.const 0x00C) (.const 0x2)]
  | .crcSpan s l => [.sw (.const 0x010) s, .sw (.const 0x014) l, .sw (.const 0x00C) (.const 0x3)]
  | .parse s l => [.sw (.const 0x010) s, .sw (.const 0x014) l, .sw (.const 0x00C) (.const 0x4)]
  | .wait => [.poll (.const 0x008) (.const 0x1) (.const 0x0)]
  | .clrStatus => [.sw (.const 0x008) (.const 0x6)]
  | .loadData off bytes => loadLines off 0 bytes

/-- A host: its program, its place in it and its variables, newest assignment first. -/
structure HostAgent where
  prog : List HostLine
  pc : Nat
  vars : List (Nat × Nat)
deriving DecidableEq, Repr

/-- The value of a host variable; one never assigned reads 0 (log 16). -/
def varValue (vars : List (Nat × Nat)) (x : Nat) : Nat :=
  match vars with
  | [] => 0
  | p :: rest => if p.1 = x then p.2 else varValue rest x

/-- Expressions are natural numbers; a difference stops at 0 (00 R10: all values are unsigned; log 16). -/
def evalExpr (vars : List (Nat × Nat)) : HostExpr → Nat
  | .const n => n
  | .var x => varValue vars x
  | .add a b => evalExpr vars a + evalExpr vars b
  | .sub a b => evalExpr vars a - evalExpr vars b
  | .max a b => Nat.max (evalExpr vars a) (evalExpr vars b)

def evalCond (vars : List (Nat × Nat)) : HostCond → Bool
  | .eq a b => evalExpr vars a == evalExpr vars b
  | .ge a b => evalExpr vars b ≤ evalExpr vars a
  | .and c d => evalCond vars c && evalCond vars d

/-- The line of a label. The rule does not say where a jump goes if the label stands twice or nowhere: DESIGN CHOICE
(log 16), to the first such line, and to the end of the program if there is none. -/
def labelAt (prog : List HostLine) (l : Nat) : Nat := prog.findIdx (· == .label l)

/-- One transaction or engine turn, before whatever else is to come. -/
def transact (e : Event) (s : State) : Host.Outcome State Fault Refusal := step { s with events := e :: s.events }

/-- Go on after a transaction, or stop with it. -/
def onNext {α β : Type} (o : Host.Outcome α Fault Refusal) (k : α → Host.Outcome β Fault Refusal) :
    Host.Outcome β Fault Refusal :=
  match o with
  | .next x => k x
  | .fault r => .fault r
  | .refused r => .refused r

/-- Go on with the host after a transaction. -/
def thenHost (o : Host.Outcome State Fault Refusal) (k : State → HostAgent) :
    Host.Outcome (HostAgent × State) Fault Refusal :=
  onNext o fun s => .next (k s, s)

/-- `sh` and `sb`, "DATA only" (30 R80): a line whose offset is outside the DATA region of 10 R17 is no line of the
language, and the host stops on it by name (log 16). -/
def storeData (n off v : Nat) (s : State) : Host.Outcome State Fault Refusal :=
  match regionOf off with
  | .data _ => transact (.write (s.cfg.base + off) n (BitVec.ofNat 32 v)) s
  | .reg _ | .table _ | .payloadOut _ | .reserved => .refused .narrowStoreOutsideData

/-- The value the last read returned. -/
def lastRead (s : State) : Word := s.responses.headD 0

/-- The host runs the line it is at (30 R80). A `poll` reads once, and stays until the masked value is the wanted
one. The rule gives the mask and the wanted value no width: DESIGN CHOICE (log 16), they are natural numbers like every
other host value, and neither is cut, so a wanted value that needs more than 32 bits is never met. A host past its
last line does nothing: DESIGN CHOICE (log 16). -/
def runLine (h : HostAgent) (s : State) : Host.Outcome (HostAgent × State) Fault Refusal :=
  let ev := evalExpr h.vars
  let past : HostAgent := { h with pc := h.pc + 1 }
  match h.prog[h.pc]? with
  | none => .next (h, s)
  | some (.sw off v) =>
    thenHost (transact (.write (s.cfg.base + ev off) 4 (BitVec.ofNat 32 (ev v))) s) fun _ => past
  | some (.sh off v) => thenHost (storeData 2 (ev off) (ev v) s) fun _ => past
  | some (.sb off v) => thenHost (storeData 1 (ev off) (ev v) s) fun _ => past
  | some (.lw rd off) =>
    thenHost (transact (.read (s.cfg.base + ev off) 4) s)
      fun t => { past with vars := (rd, (lastRead t).toNat) :: h.vars }
  | some (.lbu rd off) =>
    thenHost (transact (.read (s.cfg.base + ev off) 1) s)
      fun t => { past with vars := (rd, (lastRead t).toNat) :: h.vars }
  | some (.poll off mask val) =>
    thenHost (transact (.read (s.cfg.base + ev off) 4) s)
      fun t => if (lastRead t).toNat &&& ev mask = ev val then past else h
  | some (.label _) => .next (past, s)
  | some (.ifGoto c l) => .next (if evalCond h.vars c then { h with pc := labelAt h.prog l } else past, s)
  | some (.goto l) => .next ({ h with pc := labelAt h.prog l }, s)
  | some (.letVar x e) => .next ({ past with vars := (x, ev e) :: h.vars }, s)

/-- The host and the block together, under a schedule: at each `true` the engine has its turn, at each `false` the
host runs a line (00 R14, 20 R57). -/
def hostRun : List Bool → HostAgent → State → Host.Outcome (HostAgent × State) Fault Refusal
  | [], h, s => .next (h, s)
  | true :: sched, h, s => onNext (transact .engine s) fun t => hostRun sched h t
  | false :: sched, h, s => onNext (runLine h s) fun p => hostRun sched p.1 p.2

end Sys2Proof.Machine
end

