-- ==== Sys2Proof/Machine/HostReference.lean ====
section
/-! DEFINITION. The software around the block, as pure functions: the encoder and the stream scanner
(45_host_reference.md R113 to R120). The block runs neither (00_scope.md R5; log 16). -/

namespace Sys2Proof.Machine

/-- CFF's only usage error (45 R114). -/
inductive EncodeError where
  | payloadTooLarge
deriving DecidableEq, Repr

/-- A 16-bit value as two bytes, low byte first (45 R113). -/
def bytesLE (v : Half) : List Byte := [v.extractLsb' 0 8, v.extractLsb' 8 8]

/-- The first six header bytes: preamble, counter, size (45 R113). -/
def headerStart (payload : List Byte) (fc : Half) : List Byte :=
  [0xFA, 0xCE] ++ bytesLE fc ++ bytesLE (BitVec.ofNat 16 payload.length)

/-- `create_frame(payload, fc)` (45 R113, R114). -/
def createFrame (payload : List Byte) (fc : Half) : Except EncodeError (List Byte) :=
  if maxPayloadSize < payload.length then .error .payloadTooLarge
  else .ok (headerStart payload fc ++ bytesLE (crc16 (headerStart payload fc)) ++ payload ++ bytesLE (crc16 payload))

/-- The preamble search: the first index at which FA CE stands (45 R117). -/
def searchPreamble : List Byte → Option Nat
  | [] => none
  | a :: rest => if a = 0xFA ∧ rest.head? = some 0xCE then some 0 else (searchPreamble rest).map (· + 1)

/-- The loop of `find_frames` from `pos` (45 R116, R118). `fuel` bounds the iterations: each one that goes on moves
`pos` by at least 2, so |data| of them are enough (R120). -/
def scanFrom : Nat → List Byte → Nat → List (Half × List Byte) × Nat
  | 0, _, pos => ([], pos)
  | fuel + 1, data, pos =>
    if data.length ≤ pos then ([], pos)
    else match searchPreamble (data.drop pos) with
      | none => ([], data.length - 1)
      | some k =>
        let at_ := pos + k
        let o := parseFrame (data.drop at_)
        match o.res with
        | .success =>
          let r := scanFrom fuel data (at_ + o.consumed)
          ((o.fc, o.payload) :: r.1, r.2)
        | .insufficientData => ([], at_)
        | .invalidHeaderCrc => scanFrom fuel data (at_ + 2)
        | .invalidPayloadCrc => scanFrom fuel data (at_ + min (frameLength o.ps) (data.length - at_))
        | .invalidPreamble => scanFrom fuel data (at_ + 2)
        | .noResult => scanFrom fuel data (at_ + 2)

/-- `find_frames(data)`: the frames found and the consumed count, the scan's final position (45 R116, R119). -/
def findFrames (data : List Byte) : List (Half × List Byte) × Nat := scanFrom (data.length + 1) data 0

end Sys2Proof.Machine
end

