-- ==== Sys2Proof/Machine/HostScanner.lean ====
section
/-! DEFINITION. The stream scanner run on the block (45_host_reference.md R121): the host keeps the position and the
frames found, and the block parses each candidate. Every read and write below is a bus transaction (20 R46). The second
form is the same loop as a host program, line by line (95 program P4). -/

namespace Sys2Proof.Machine

/-- `sw off, v` (30 R80). -/
def storeReg (off v : Nat) (s : State) : Host.Outcome State Fault Refusal :=
  transact (.write (s.cfg.base + off) 4 (BitVec.ofNat 32 v)) s

/-- `lw rd, off` (30 R80): the value is `lastRead` of the state after it. -/
def loadReg (off : Nat) (s : State) : Host.Outcome State Fault Refusal := transact (.read (s.cfg.base + off) 4) s

/-- `n` bytes from `off` up, by one-byte reads in rising order (`lbu`, 30 R80). -/
def loadBytes : Nat → Nat → State → Host.Outcome (List Byte × State) Fault Refusal
  | 0, _, s => .next ([], s)
  | n + 1, off, s =>
    onNext (transact (.read (s.cfg.base + off) 1) s) fun t =>
      onNext (loadBytes n (off + 1) t) fun r => .next ((lastRead t).setWidth 8 :: r.1, r.2)

/-- `wait` (30 R81): read STATUS until BUSY = 0. The engine's turn comes after `polls` reads that found BUSY = 1, so
`polls` is the command's latency as the host sees it (00 R8, 20 R57; log 16). -/
def waitIdle : Nat → State → Host.Outcome State Fault Refusal
  | 0, s => onNext (transact .engine s) fun t => loadReg 0x008 t
  | polls + 1, s => onNext (loadReg 0x008 s) fun t => if (lastRead t).getLsbD 0 then waitIdle polls t else .next t

/-- `wait; parse start, len; wait` (45 R121, 30 R81). -/
def parseOnBlock (polls start len : Nat) (s : State) : Host.Outcome State Fault Refusal :=
  onNext (waitIdle polls s) fun s1 =>
    onNext (storeReg 0x010 start s1) fun s2 =>
      onNext (storeReg 0x014 len s2) fun s3 =>
        onNext (storeReg 0x00C 0x4 s3) fun s4 => waitIdle polls s4

/-- After RESULT = 1: the frame from FRAME_COUNTER and PAYLOAD_OUT[0 .. PAYLOAD_SIZE), copied before the next PARSE, and
CONSUMED, which is the last value read (45 R121). -/
def takeFrame (s : State) : Host.Outcome ((Half × List Byte) × State) Fault Refusal :=
  onNext (loadReg 0x024 s) fun s1 =>
    onNext (loadReg 0x028 s1) fun s2 =>
      onNext (loadBytes (lastRead s2).toNat 0x40000 s2) fun p =>
        onNext (loadReg 0x034 p.2) fun s3 => .next (((lastRead s1).setWidth 16, p.1), s3)

/-- The loop of 45 R116 on the block (45 R121), with the stream at DATA[0 .. L), from `pos`: the frames, the consumed
count, and the block afterwards. The host searches its own copy of DATA[pos .. L), which it has just read. RESULT 1 is
SUCCESS, 2 INSUFFICIENT_DATA, 4 INVALID_HEADER_CRC, 5 INVALID_PAYLOAD_CRC, and any other code the defensive
branch. -/
def scanBlockFrom (polls : Nat → Nat) (L : Nat) :
    Nat → Nat → State → Host.Outcome ((List (Half × List Byte) × Nat) × State) Fault Refusal
  | 0, pos, s => .next (([], pos), s)
  | fuel + 1, pos, s =>
    if L ≤ pos then .next (([], pos), s)
    else onNext (loadBytes (L - pos) (0x20000 + pos) s) fun copy =>
      match searchPreamble copy.1 with
      | none => .next (([], L - 1), copy.2)
      | some k =>
        onNext (parseOnBlock (polls fuel) (pos + k) (L - (pos + k)) copy.2) fun s1 =>
          onNext (loadReg 0x020 s1) fun s2 =>
            match (lastRead s2).toNat with
            | 1 => onNext (takeFrame s2) fun f =>
                onNext (scanBlockFrom polls L fuel (pos + k + (lastRead f.2).toNat) f.2) fun r =>
                  .next ((f.1 :: r.1.1, r.1.2), r.2)
            | 2 => .next (([], pos + k), s2)
            | 4 => scanBlockFrom polls L fuel (pos + k + 2) s2
            | 5 => onNext (loadReg 0x028 s2) fun s3 =>
                scanBlockFrom polls L fuel (pos + k + (10 + (lastRead s3).toNat)) s3
            | _ => scanBlockFrom polls L fuel (pos + k + 2) s2

/-- `find_frames` on the block, for a stream of `L` bytes at DATA[0 .. L), L <= BUF_BYTES (45 R121). `polls` gives each
command a latency of its own. -/
def scanBlock (polls : Nat → Nat) (L : Nat) (s : State) :
    Host.Outcome ((List (Half × List Byte) × Nat) × State) Fault Refusal :=
  scanBlockFrom polls L (L + 1) 0 s

/-! Program P4 of 95_test_vectors.md, for a stream of `L` bytes. Its variables, in order: pos, n, k, b0, b1, r, fc, ps,
j, p, c. -/

/-- The preamble search of P4: labels 0 scan, 1 find, 2 nopre, 3 found, 8 done. -/
def scanSearchLines (L : HostExpr) : List HostLine :=
  [.letVar 0 (.const 0), .letVar 1 (.const 0),
    .label 0, .ifGoto (.ge (.var 0) L) 8, .letVar 2 (.var 0),
    .label 1, .ifGoto (.ge (.add (.var 2) (.const 1)) L) 2,
    .lbu 3 (.add (.const 0x20000) (.var 2)), .lbu 4 (.add (.add (.const 0x20000) (.var 2)) (.const 1)),
    .ifGoto (.and (.eq (.var 3) (.const 0xFA)) (.eq (.var 4) (.const 0xCE))) 3,
    .letVar 2 (.add (.var 2) (.const 1)), .goto 1,
    .label 2, .letVar 0 (.max (.const 0) (.sub L (.const 1))), .goto 8]

/-- The parse and the branch on RESULT of P4: labels 3 found, 4 succ, 7 paybad. -/
def scanParseLines (L : HostExpr) : List HostLine :=
  [.label 3, .letVar 0 (.var 2)] ++ expand .wait ++ expand (.parse (.var 0) (.sub L (.var 0))) ++ expand .wait ++
  [.lw 5 (.const 0x020), .ifGoto (.eq (.var 5) (.const 1)) 4, .ifGoto (.eq (.var 5) (.const 2)) 8,
    .ifGoto (.eq (.var 5) (.const 5)) 7, .letVar 0 (.add (.var 0) (.const 2)), .goto 0]

/-- The payload copy and the two long advances of P4: labels 5 copy, 6 took. -/
def scanTakeLines : List HostLine :=
  [.label 4, .lw 6 (.const 0x024), .lw 7 (.const 0x028), .letVar 8 (.const 0),
    .label 5, .ifGoto (.ge (.var 8) (.var 7)) 6, .lbu 9 (.add (.const 0x40000) (.var 8)),
    .letVar 8 (.add (.var 8) (.const 1)), .goto 5,
    .label 6, .letVar 1 (.add (.var 1) (.const 1)), .lw 10 (.const 0x034), .letVar 0 (.add (.var 0) (.var 10)), .goto 0,
    .label 7, .lw 7 (.const 0x028), .letVar 0 (.add (.add (.var 0) (.const 10)) (.var 7)), .goto 0]

/-- Program P4 (45 R121), with L as a constant. -/
def scanProgram (L : Nat) : List HostLine :=
  scanSearchLines (.const L) ++ scanParseLines (.const L) ++ scanTakeLines ++ [.label 8]

end Sys2Proof.Machine
end

