-- ==== Sys2Proof/Safety.lean ====
section
/-! DEFINITION. What holds of every state the block can be in, in the terms the claims use. Each clause comes from a
sentence of the spec. -/

namespace Sys2Proof.Safety

open Sys2Proof.Machine

/-- "The invariant `busy = pending.isSome` holds in every reachable state" (10 R43). -/
abbrev BusyIsPending (s : State) : Prop := s.busy = s.pending.isSome

/-- DONE is cleared by acceptance and set only by a completion (10 R22), so it is 0 while BUSY = 1. -/
abbrev BusyNotDone (s : State) : Prop := s.busy = true → s.done = false

/-- The sampled operands "always equal the live registers" (10 R38), and the window of a pending window command is in
range, because acceptance checked it (20 R65). -/
def pendingSampled (s : State) : Bool :=
  match s.pending with
  | some (.cmd c) => c == sampleOperands c.op s && (!usesWindow c.op || windowInRange s)
  | some .init => true
  | none => true

/-- ERRCODE is 0 exactly while ERR is 0 (10 R23, R24). -/
abbrev ErrcodeIsSet (s : State) : Prop := s.err = true ↔ s.errcode ≠ .noError

/-- Both buffers are in canonical form and within their sizes (10 R33, R34). -/
abbrev BuffersOk (s : State) : Prop :=
  Memory.Wf s.data ∧ Memory.Below s.data s.cfg.bufBytes ∧
    Memory.Wf s.payloadOut ∧ Memory.Below s.payloadOut maxPayloadSize

/-- "CONSUMED is nonzero exactly when RESULT = SUCCESS, and then it is 10 + PAYLOAD_SIZE" (41 R110). -/
abbrev ConsumedOk (s : State) : Prop :=
  s.consumed.toNat = if s.result = .success then 10 + s.payloadSize.toNat else 0

/-- The rows of the table of 41 R106 that speak of the CRC registers, and reset's row (10 R42). -/
abbrev CrcRegsOk (s : State) : Prop :=
  (s.result = .noResult ∨ s.result = .invalidPreamble →
    s.frameCounter = 0 ∧ s.payloadSize = 0 ∧ s.hdrRx = 0 ∧ s.hdrCalc = 0) ∧
  (s.result = .invalidHeaderCrc ↔ s.hdrCalc ≠ s.hdrRx) ∧
  (s.result = .invalidPayloadCrc ↔ s.payCalc ≠ s.payRx) ∧
  (s.result ≠ .success → s.result ≠ .invalidPayloadCrc → s.payRx = 0 ∧ s.payCalc = 0)

/-- After SUCCESS the payload bytes [0, PAYLOAD_SIZE) of PAYLOAD_OUT are written (41 R107). -/
abbrev PayloadWritten (s : State) : Prop :=
  s.result = .success → ∀ i < s.payloadSize.toNat, (Memory.read s.payloadOut i).isSome = true

/-- What holds in every state the block can be in. -/
abbrev Inv (s : State) : Prop :=
  s.cfg.Legal ∧ BusyIsPending s ∧ BusyNotDone s ∧ pendingSampled s = true ∧ ErrcodeIsSet s ∧ BuffersOk s ∧
    ConsumedOk s ∧ CrcRegsOk s ∧ PayloadWritten s

/-! The words the claims are written in. -/

/-- `MemRead(BASE + off, n)`, as the next event, returns `v` and changes nothing else of the block (20 R46, R55). The
answer is recorded for the host, and four numbers of free values are set aside: both are the model's own (log 2, 11). -/
abbrev Reads (s : State) (off n : Nat) (v : Word) : Prop :=
  ∀ es, step { s with events := .read (s.cfg.base + off) n :: es } =
    .next { s with events := es, responses := v :: s.responses, draws := s.draws + 4 }

/-- `MemWrite(BASE + off, n, v)`, as the next event, takes the block from `s` to `t` (20 R46). -/
abbrev Writes (s : State) (off n : Nat) (v : Word) (t : State) : Prop :=
  ∀ es, step { s with events := .write (s.cfg.base + off) n v :: es } = .next { t with events := es }

/-- BUSY = 1 and the accepted command `c` is pending. -/
abbrev Completing (s : State) (c : Command) : Prop := s.busy = true ∧ s.pending = some (.cmd c)

/-- It is the engine's turn: the schedule says so, or nothing more is to come from outside (log 3). -/
abbrev EngineMoves (s : State) : Prop := s.events = [] ∨ ∃ es, s.events = .engine :: es

/-- The next event is `rst`. -/
abbrev ResetNext (s : State) : Prop := ∃ es, s.events = .rst :: es

/-- The next event is a host write. -/
abbrev HostWriteNext (s : State) : Prop := ∃ addr n v es, s.events = .write addr n v :: es

/-- The next event is the host's 4-byte write of `v` to the register at `off`. -/
abbrev WriteNext (s : State) (off : Nat) (v : Word) : Prop :=
  ∃ es, s.events = .write (s.cfg.base + off) 4 v :: es

/-- DATA holds the written bytes `w` from index `a` up. -/
abbrev DataHolds (s : State) (a : Nat) (w : List Byte) : Prop :=
  ∀ j < w.length, Memory.read s.data (a + j) = w[j]?

/-- The offsets 10 R37 reserves. -/
abbrev ReservedOffset (s : State) (off : Nat) : Prop :=
  (0x03C ≤ off ∧ off < 0x400) ∨ (0x800 ≤ off ∧ off < 0x20000) ∨
    (0x20000 + s.cfg.bufBytes ≤ off ∧ off < 0x40000) ∨ off = 0x4FFFF ∨ (0x50000 ≤ off ∧ off < 0x80000)

/-- The table of 20 R48, row by row. -/
abbrev AccessInTable (off n : Nat) : Prop :=
  (off < 0x20000 ∧ n = 4 ∧ off % 4 = 0) ∨
    (0x20000 ≤ off ∧ off < 0x50000 ∧ (n = 1 ∨ n = 2 ∨ n = 4) ∧ off % n = 0) ∨
    (0x50000 ≤ off ∧ off < 0x80000 ∧ n = 4 ∧ off % 4 = 0)

/-- The bytes of a window that PARSE reads, by the step that returns (41 R108): none, two, eight, or the whole
frame. -/
def bytesRead (w : List Byte) : Nat :=
  if w.length < 8 then 0
  else if w.getD 0 0 ≠ 0xFA ∨ w.getD 1 0 ≠ 0xCE then 2
  else if (parseFrame w).res = .invalidHeaderCrc ∨ (parseFrame w).res = .insufficientData then 8
  else 10 + (le16 w 4).toNat

/-- A transaction the host may issue: an allowed access inside the block. -/
abbrev AllowedTransaction (cfg : Config) : Event → Prop
  | .read addr n => ∃ off, addr = cfg.base + off ∧ AccessInTable off n
  | .write addr n _ => ∃ off, addr = cfg.base + off ∧ AccessInTable off n
  | .engine => True
  | .rst => False

end Sys2Proof.Safety
end

