-- ==== Sys2Proof/Certificates/Slice0/Obligations.lean ====
section
/-! DEFINITION. The statements, for the provers. Each docstring names the rule it formalises, or says that it rests on
a choice of the model. `Reads`, `Writes`, `Completing` and the other words of the claims stand in Safety.lean. -/

open Sys2Proof Sys2Proof.Machine Sys2Proof.Safety

/-! ## Command words -/

/-- 30 R76: the opcode map, with OP 0x5 to 0xF reserved. -/
def Obligations.CommandWordsDecode : Prop :=
  decode 0x00000000 = .ok .nop ∧ decode 0x00000001 = .ok .crcInit ∧ decode 0x00000002 = .ok .crcByte ∧
  decode 0x00000003 = .ok .crcSpan ∧ decode 0x00000004 = .ok .parse ∧
  ∀ w : Word, 5 ≤ w.toNat → w.toNat ≤ 15 → decode w = .error .reservedOp

/-- 30 section 1 (the legal words of R66): a word decodes exactly when RSVD = 0 and OP is 0x0 to 0x4, and then it is
the one word of its command. -/
def Obligations.LegalWordsDecodeAndEncodeBack : Prop :=
  (∀ w : Word, (∃ i, decode w = .ok i) ↔ w.extractLsb' 4 28 = 0 ∧ (w.extractLsb' 0 4).toNat ≤ 4) ∧
  ∀ (w : Word) (i : Instr), decode w = .ok i ↔ w = encode i

/-! ## Steps -/

/-- A step runs the decoded command: the host's write of a command word to CMD while BUSY = 0 is `exec` of the command
that word decodes to, on the state with that event taken (60 section 2). -/
def Obligations.CmdWriteRunsDecodedCommand : Prop :=
  ∀ (s : State) (es : List Event) (w : Word) (i : Instr), s.busy = false → decode w = .ok i →
    step { s with events := .write (s.cfg.base + 0x00C) 4 w :: es } = exec i { s with events := es }

/-- A step runs the pending command: at the engine's turn, by the schedule or because nothing more is to come, the step
is `exec` of the pending command (60 section 2, log 3). -/
def Obligations.EngineTurnRunsPendingCommand : Prop :=
  ∀ (s : State) (es : List Event) (c : Command), Completing s c →
    step { s with events := .engine :: es } = exec c.op { s with events := es } ∧
    step { s with events := [] } = exec c.op { s with events := [] }

/-- 60 R128: what a CMD write does while BUSY = 0. An illegal word raises ILLEGAL_CMD; a window command whose window is
out of range raises WINDOW_RANGE; any other command is accepted. Nothing else changes. -/
def Obligations.CommandAcceptance : Prop :=
  ∀ (s : State) (v : Word), s.busy = false →
    (v.extractLsb' 4 28 ≠ 0 ∨ 4 < (v.extractLsb' 0 4).toNat →
      Writes s 0x00C 4 v { s with err := true, errcode := .illegalCmd }) ∧
    (∀ i, decode v = .ok i →
      ((i = .crcSpan ∨ i = .parse) ∧ s.cfg.bufBytes < s.start.toNat + s.len.toNat →
        Writes s 0x00C 4 v { s with err := true, errcode := .windowRange }) ∧
      (¬ ((i = .crcSpan ∨ i = .parse) ∧ s.cfg.bufBytes < s.start.toNat + s.len.toNat) →
        Writes s 0x00C 4 v
          { s with
            pending := some (.cmd { op := i, start := s.start, len := s.len, din := s.din })
            busy := true
            done := false }))

/-- 60 R127: while BUSY = 1 every allowed host write, at any offset, records BUSY_WRITE and does nothing else; a read
is never an error. -/
def Obligations.BusyWriteIsIgnored : Prop :=
  ∀ (s : State) (off n : Nat), s.busy = true → AccessInTable off n →
    (∀ v, Writes s off n v { s with err := true, errcode := .busyWrite }) ∧ ∃ v, Reads s off n v

/-- 00 section 6 (R14): the engine never starts a step unless BUSY = 1. An engine turn while BUSY = 0, and a step with
nothing to come, change nothing (that an idle step exists at all is the model's choice, log 3). -/
def Obligations.IdleEngineDoesNothing : Prop :=
  ∀ (s : State) (es : List Event), s.busy = false →
    step { s with events := .engine :: es } = .next { s with events := es } ∧
    step { s with events := [] } = .next { s with events := [] }

/-- 20 R49: an access to the block that the table of R48 does not allow is refused, and only such an access is. -/
def Obligations.AccessesOutsideTheTableAreRefused : Prop :=
  ∀ (s : State) (es : List Event) (off n : Nat) (v : Word), off < 0x80000 →
    (¬ AccessInTable off n →
      step { s with events := .read (s.cfg.base + off) n :: es } = .refused .accessNotAllowed ∧
      step { s with events := .write (s.cfg.base + off) n v :: es } = .refused .accessNotAllowed) ∧
    (AccessInTable off n → (∃ u, Reads s off n u) ∧
      ∃ t, step { s with events := .write (s.cfg.base + off) n v :: es } = .next t)

/-- 20 section 2: an address outside [BASE, BASE + 0x80000) is not the block's. That the model stops there is its own
choice (log 9). -/
def Obligations.AddressOutsideBlockFaults : Prop :=
  ∀ (s : State) (es : List Event) (addr n : Nat) (v : Word),
    addr < s.cfg.base ∨ s.cfg.base + 0x80000 ≤ addr →
    step { s with events := .read addr n :: es } = .fault .addressOutsideBlock ∧
    step { s with events := .write addr n v :: es } = .fault .addressOutsideBlock

/-- 70 section 1 (R143): the engine's one INIT step, at its turn in the schedule, clears BUSY and the pending record and
leaves every other register unchanged. That the engine has its turn too when nothing more is to come, the second
clause, is the model's choice (log 3). -/
def Obligations.InitStepEndsTableInitialisation : Prop :=
  ∀ (s : State) (es : List Event), s.busy = true → s.pending = some .init →
    step { s with events := .engine :: es } = .next { s with events := es, busy := false, pending := none } ∧
    step { s with events := [] } = .next { s with events := [], busy := false, pending := none }

/-- 10 R42: the state `rst` leaves, field by field, for the parameters the block has. -/
def Obligations.ResetValues : Prop :=
  ∀ (s : State) (es : List Event), ∃ t, step { s with events := .rst :: es } = .next t ∧
    t.ctrlIe = false ∧ t.busy = decide (0 < s.cfg.tableInitLatency) ∧ t.done = false ∧ t.err = false ∧
    t.errcode = .noError ∧ t.start = 0 ∧ t.len = 0 ∧ t.din = 0 ∧ t.crc = 0xFFFF ∧ t.result = .noResult ∧
    t.frameCounter = 0 ∧ t.payloadSize = 0 ∧ t.hdrRx = 0 ∧ t.hdrCalc = 0 ∧ t.payRx = 0 ∧ t.payCalc = 0 ∧
    t.consumed = 0 ∧ (∀ a, Memory.read t.data a = none) ∧ (∀ a, Memory.read t.payloadOut a = none) ∧
    t.pending = (if 0 < s.cfg.tableInitLatency then some .init else none) ∧ irq t = false ∧
    Reads t 0x000 4 0x0CFF0100 ∧ Reads t 0x038 4 (BitVec.ofNat 32 s.cfg.bufBytes) ∧
    (s.cfg.tableInitLatency = 0 → ∀ i : Byte, Reads t (0x400 + 4 * i.toNat) 4 ((tableEntry i).setWidth 32)) ∧
    t.events = es

/-! ## Completion of each command -/

/-- 40 section 2 (R87): the pending NOP completes, and nothing but the common flags changes. -/
def Obligations.NopCompletes : Prop :=
  ∀ (s : State) (c : Command), Completing s c → c.op = .nop →
    exec .nop s = .next { s with busy := false, done := true, pending := none }

/-- 40 section 2 (R88): the pending CRC_INIT completes, whatever the accumulator held. -/
def Obligations.CrcInitCompletes : Prop :=
  ∀ (s : State) (c : Command), Completing s c → c.op = .crcInit →
    exec .crcInit s = .next { s with crc := 0xFFFF, busy := false, done := true, pending := none }

/-- 40 section 2 (R89, R83): the pending CRC_BYTE completes with one table step on the sampled DIN. -/
def Obligations.CrcByteCompletes : Prop :=
  ∀ (s : State) (c : Command), Completing s c → c.op = .crcByte →
    exec .crcByte s = .next
      { s with
        crc := (s.crc <<< 8) ^^^ tableEntry (s.crc.extractLsb' 8 8 ^^^ c.din)
        busy := false, done := true, pending := none }

/-- 40 section 2 (R90): the pending CRC_SPAN completes with the CRC of its window, whatever the accumulator held: of the
written bytes, or of the written bytes and a free value for each unwritten one. The numbers of free values set aside
are the model's own (log 2, 14). -/
def Obligations.CrcSpanCompletes : Prop :=
  ∀ (s : State) (c : Command), Completing s c → c.op = .crcSpan →
    (exec .crcSpan s = .next
      { s with
        crc := crc16 (window s c), draws := s.draws + c.len.toNat
        busy := false, done := true, pending := none }) ∧
    (∀ w : List Byte, w.length = c.len.toNat → DataHolds s c.start.toNat w →
      exec .crcSpan s = .next
        { s with
          crc := w.foldl crcUpdate 0xFFFF, draws := s.draws + c.len.toNat
          busy := false, done := true, pending := none })

/-- 41 section 2 (R105): the pending PARSE completes: every parse register gets its field of `parse_frame` of the
window, and PAYLOAD_OUT the payload on SUCCESS only. -/
def Obligations.ParseCompletes : Prop :=
  ∀ (s : State) (c : Command) (o : ParseOut), Completing s c → c.op = .parse → o = parseFrame (window s c) →
    exec .parse s = .next
      { s with
        result := o.res, frameCounter := o.fc, payloadSize := o.ps
        hdrRx := o.hrx, hdrCalc := o.hcalc, payRx := o.prx, payCalc := o.pcalc
        consumed := BitVec.ofNat 17 o.consumed
        payloadOut := if o.res = .success then Memory.store s.payloadOut 0 o.payload else s.payloadOut
        draws := s.draws + c.len.toNat
        busy := false, done := true, pending := none }

/-! ## The seven steps of PARSE, at the registers -/

/-- 41 R98: a window shorter than 8 bytes gives INSUFFICIENT_DATA whatever its bytes are, with every parse field 0. -/
def Obligations.ParseOfShortWindow : Prop :=
  ∀ (s : State) (c : Command), Completing s c → c.op = .parse → c.len.toNat < 8 →
    exec .parse s = .next
      { s with
        result := .insufficientData, frameCounter := 0, payloadSize := 0, hdrRx := 0, hdrCalc := 0
        payRx := 0, payCalc := 0, consumed := 0, draws := s.draws + c.len.toNat
        busy := false, done := true, pending := none }

/-- 41 R99: a window of at least 8 bytes whose first two are not FA CE gives INVALID_PREAMBLE, with every parse field
0. -/
def Obligations.ParseOfWrongPreamble : Prop :=
  ∀ (s : State) (c : Command), Completing s c → c.op = .parse → 8 ≤ c.len.toNat →
    ¬ ((window s c).getD 0 0 = 0xFA ∧ (window s c).getD 1 0 = 0xCE) →
    exec .parse s = .next
      { s with
        result := .invalidPreamble, frameCounter := 0, payloadSize := 0, hdrRx := 0, hdrCalc := 0
        payRx := 0, payCalc := 0, consumed := 0, draws := s.draws + c.len.toNat
        busy := false, done := true, pending := none }

/-- 41 R100 and R101: once the preamble matches, the counter and the size are read, and a header CRC that differs from
the CRC of bytes 0 to 5 gives INVALID_HEADER_CRC, consumed 0, the payload CRC fields 0 and the provisional fields
kept. Bytes are written as `h` here; they are the window's first eight. -/
def Obligations.ParseOfWrongHeaderCrc : Prop :=
  ∀ (s : State) (c : Command) (h : List Byte), Completing s c → c.op = .parse → 8 ≤ c.len.toNat →
    h = (window s c).take 8 → h.getD 0 0 = 0xFA → h.getD 1 0 = 0xCE →
    crc16 (h.take 6) ≠ h.getD 7 0 ++ h.getD 6 0 →
    exec .parse s = .next
      { s with
        result := .invalidHeaderCrc
        frameCounter := h.getD 3 0 ++ h.getD 2 0, payloadSize := h.getD 5 0 ++ h.getD 4 0
        hdrRx := h.getD 7 0 ++ h.getD 6 0, hdrCalc := crc16 (h.take 6)
        payRx := 0, payCalc := 0, consumed := 0, draws := s.draws + c.len.toNat
        busy := false, done := true, pending := none }

/-- 41 section 1 (R102): a valid header whose frame of 8 + size + 2 bytes does not fit the window gives
INSUFFICIENT_DATA with the header fields kept, consumed 0. -/
def Obligations.ParseOfIncompleteFrame : Prop :=
  ∀ (s : State) (c : Command) (h : List Byte), Completing s c → c.op = .parse → 8 ≤ c.len.toNat →
    h = (window s c).take 8 → h.getD 0 0 = 0xFA → h.getD 1 0 = 0xCE →
    crc16 (h.take 6) = h.getD 7 0 ++ h.getD 6 0 →
    c.len.toNat < 8 + (h.getD 5 0 ++ h.getD 4 0).toNat + 2 →
    exec .parse s = .next
      { s with
        result := .insufficientData
        frameCounter := h.getD 3 0 ++ h.getD 2 0, payloadSize := h.getD 5 0 ++ h.getD 4 0
        hdrRx := h.getD 7 0 ++ h.getD 6 0, hdrCalc := crc16 (h.take 6)
        payRx := 0, payCalc := 0, consumed := 0, draws := s.draws + c.len.toNat
        busy := false, done := true, pending := none }

/-- 41 section 1 (R103): a whole frame in the window, header `h`, payload `p`, trailer `lo hi`, whatever follows: a
payload CRC that differs from the trailer gives INVALID_PAYLOAD_CRC, consumed 0, PAYLOAD_OUT unchanged. -/
def Obligations.ParseOfWrongPayloadCrc : Prop :=
  ∀ (s : State) (c : Command) (h p rest : List Byte) (lo hi : Byte), Completing s c → c.op = .parse →
    window s c = h ++ p ++ [lo, hi] ++ rest → h.length = 8 → h.getD 0 0 = 0xFA → h.getD 1 0 = 0xCE →
    crc16 (h.take 6) = h.getD 7 0 ++ h.getD 6 0 → p.length = (h.getD 5 0 ++ h.getD 4 0).toNat →
    crc16 p ≠ hi ++ lo →
    exec .parse s = .next
      { s with
        result := .invalidPayloadCrc
        frameCounter := h.getD 3 0 ++ h.getD 2 0, payloadSize := h.getD 5 0 ++ h.getD 4 0
        hdrRx := h.getD 7 0 ++ h.getD 6 0, hdrCalc := crc16 (h.take 6)
        payRx := hi ++ lo, payCalc := crc16 p, consumed := 0, draws := s.draws + c.len.toNat
        busy := false, done := true, pending := none }

/-- 41 R107 and section 1 (R104): with the payload CRC right, PARSE succeeds: CONSUMED is the frame length, the payload
bytes stand in PAYLOAD_OUT[0 .. size), and every other byte of PAYLOAD_OUT keeps its contents and mark. -/
def Obligations.ParseOfValidFrame : Prop :=
  ∀ (s : State) (c : Command) (h p rest : List Byte) (lo hi : Byte), Completing s c → c.op = .parse →
    window s c = h ++ p ++ [lo, hi] ++ rest → h.length = 8 → h.getD 0 0 = 0xFA → h.getD 1 0 = 0xCE →
    crc16 (h.take 6) = h.getD 7 0 ++ h.getD 6 0 → p.length = (h.getD 5 0 ++ h.getD 4 0).toNat →
    crc16 p = hi ++ lo →
    ∃ m : Memory, exec .parse s = .next
      { s with
        result := .success
        frameCounter := h.getD 3 0 ++ h.getD 2 0, payloadSize := h.getD 5 0 ++ h.getD 4 0
        hdrRx := h.getD 7 0 ++ h.getD 6 0, hdrCalc := crc16 (h.take 6)
        payRx := hi ++ lo, payCalc := crc16 p, consumed := BitVec.ofNat 17 (8 + p.length + 2)
        payloadOut := m, draws := s.draws + c.len.toNat
        busy := false, done := true, pending := none } ∧
      8 + p.length + 2 < 2 ^ 17 ∧
      (∀ k < p.length, Memory.read m k = p[k]?) ∧
      (∀ a, p.length ≤ a → Memory.read m a = Memory.read s.payloadOut a)

/-- 41 section 2 (R108): PARSE reads no other byte than its steps need. If DATA is changed but the bytes the steps read
(`bytesRead`: none, two, eight or the frame) stay as they were, written or not, the result is the same. -/
def Obligations.ParseReadsOnlyItsFrame : Prop :=
  ∀ (s t : State) (c : Command) (m : Memory), Completing s c → c.op = .parse →
    (∀ j < bytesRead (window s c), Memory.read m (c.start.toNat + j) = Memory.read s.data (c.start.toNat + j)) →
    exec .parse s = .next t → exec .parse { s with data := m } = .next { t with data := m }

/-! ## Frames of the commands -/

/-- 40 R94: NOP, CRC_INIT, CRC_BYTE and CRC_SPAN, when they complete, write only CRC and the common flags (NOP not even
CRC): every parse register, every byte of DATA and PAYLOAD_OUT, the operand registers, CTRL.IE, ERR, ERRCODE and the
parameters are unchanged. PARSE never writes CRC. -/
def Obligations.CrcAndParseDoNotDisturbEachOther : Prop :=
  (∀ (i : Instr) (s t : State) (c : Command), i ≠ .parse → Completing s c → c.op = i → exec i s = .next t →
    t.result = s.result ∧ t.frameCounter = s.frameCounter ∧ t.payloadSize = s.payloadSize ∧
    t.hdrRx = s.hdrRx ∧ t.hdrCalc = s.hdrCalc ∧ t.payRx = s.payRx ∧ t.payCalc = s.payCalc ∧
    t.consumed = s.consumed ∧ (∀ a, Memory.read t.data a = Memory.read s.data a) ∧
    (∀ a, Memory.read t.payloadOut a = Memory.read s.payloadOut a) ∧
    t.start = s.start ∧ t.len = s.len ∧ t.din = s.din ∧ t.ctrlIe = s.ctrlIe ∧ t.err = s.err ∧
    t.errcode = s.errcode ∧ t.cfg = s.cfg ∧ (i = .nop → t.crc = s.crc) ∧
    t.busy = false ∧ t.done = true ∧ t.pending = none) ∧
  ∀ (s t : State), exec .parse s = .next t → t.crc = s.crc

/-- 41 R109 and R111: PARSE writes no byte of DATA and not the accumulator. When it completes, its writes are the parse
registers, the common flags and the bytes PAYLOAD_OUT[0 .. size) on SUCCESS: every byte of PAYLOAD_OUT outside them,
and everything else, is unchanged. -/
def Obligations.ParseLeavesInputAndAccumulator : Prop :=
  ∀ (s t : State) (c : Command), Completing s c → c.op = .parse → exec .parse s = .next t →
    (∀ a, Memory.read t.data a = Memory.read s.data a) ∧ t.crc = s.crc ∧
    (∀ a, ¬ (t.result = .success ∧ a < t.payloadSize.toNat) →
      Memory.read t.payloadOut a = Memory.read s.payloadOut a) ∧
    t.start = s.start ∧ t.len = s.len ∧ t.din = s.din ∧ t.ctrlIe = s.ctrlIe ∧ t.err = s.err ∧
    t.errcode = s.errcode ∧ t.cfg = s.cfg ∧ t.events = s.events ∧ t.responses = s.responses

/-- 40 sections 2 and 3 (R88 to R90, R93): the accumulator holds the CRC of what was fed to it. CRC_INIT leaves the CRC of
the empty string, CRC_SPAN that of its window, and CRC_BYTE takes the CRC of `w` to the CRC of `w` and one more
byte. -/
def Obligations.AccumulatorHoldsCrcOfBytesFed : Prop :=
  ∀ (s : State) (c : Command) (w : List Byte), Completing s c →
    (c.op = .crcInit → ∃ t, exec .crcInit s = .next t ∧ t.crc = crc16 []) ∧
    (c.op = .crcSpan → w.length = c.len.toNat → DataHolds s c.start.toNat w →
      ∃ t, exec .crcSpan s = .next t ∧ t.crc = crc16 w) ∧
    (c.op = .crcByte → s.crc = crc16 w → ∃ t, exec .crcByte s = .next t ∧ t.crc = crc16 (w ++ [c.din]))

/-! ## Registers as the host sees them -/

/-- 10 R18 and R36: ID and BUF_SIZE read their constants, busy or not, and a write of them while BUSY = 0 is ignored. -/
def Obligations.IdAndBufSizeAreConstants : Prop :=
  ∀ (s : State) (v : Word),
    Reads s 0x000 4 0x0CFF0100 ∧ Reads s 0x038 4 (BitVec.ofNat 32 s.cfg.bufBytes) ∧
    (s.busy = false → Writes s 0x000 4 v s ∧ Writes s 0x038 4 v s)

/-- 10 R25, with the W1C rules it joins: a write of STATUS while BUSY = 0 clears DONE by bit 1, ERR and ERRCODE by bit 2,
both at once, and changes nothing else; bit 3 and bits 31 to 8 read 0. -/
def Obligations.StatusWriteOneToClear : Prop :=
  ∀ (s : State), (s.busy = false → ∀ v : Word,
    Writes s 0x008 4 v
      { s with
        done := if v.getLsbD 1 then false else s.done
        err := if v.getLsbD 2 then false else s.err
        errcode := if v.getLsbD 2 then .noError else s.errcode }) ∧
    ∃ v : Word, Reads s 0x008 4 v ∧ v.getLsbD 3 = false ∧ v.extractLsb' 8 24 = 0

/-- 10 sections 1 to 6 (the map of R17): what each register reads, the seven result registers while BUSY = 0: its fields at
their bits and zeros elsewhere. -/
def Obligations.RegisterReads : Prop :=
  ∀ (s : State),
    Reads s 0x004 4 (BitVec.ofNat 32 s.ctrlIe.toNat) ∧
    Reads s 0x008 4 (BitVec.ofNat 32 (s.busy.toNat + 2 * s.done.toNat + 4 * s.err.toNat +
      16 * (match s.errcode with | .noError => 0 | .illegalCmd => 1 | .windowRange => 2 | .busyWrite => 3))) ∧
    Reads s 0x00C 4 0 ∧ Reads s 0x010 4 s.start ∧ Reads s 0x014 4 s.len ∧
    Reads s 0x018 4 (BitVec.ofNat 32 s.din.toNat) ∧
    (s.busy = false →
      Reads s 0x01C 4 (BitVec.ofNat 32 s.crc.toNat) ∧
      Reads s 0x020 4 (match s.result with
        | .noResult => 0 | .success => 1 | .insufficientData => 2 | .invalidPreamble => 3
        | .invalidHeaderCrc => 4 | .invalidPayloadCrc => 5) ∧
      Reads s 0x024 4 (BitVec.ofNat 32 s.frameCounter.toNat) ∧
      Reads s 0x028 4 (BitVec.ofNat 32 s.payloadSize.toNat) ∧
      Reads s 0x02C 4 (BitVec.ofNat 32 (s.hdrCalc.toNat * 65536 + s.hdrRx.toNat)) ∧
      Reads s 0x030 4 (BitVec.ofNat 32 (s.payCalc.toNat * 65536 + s.payRx.toNat)) ∧
      Reads s 0x034 4 (BitVec.ofNat 32 s.consumed.toNat))

/-- 70 R147 and 10 R44: while BUSY = 1, the seven result registers and every byte of PAYLOAD_OUT read free values; while
a command is pending, every other read is what it would be on the idle block (`RegisterReads`, `DataReadIsLittleEndian`
and the others say what that is), but that STATUS has its BUSY bit set. The state itself keeps its values (`Reads`). The model's readings: that the reads are free during table initialisation too (log 8), and that a register's
free value covers all 32 bits (log 7). -/
def Obligations.ResultReadsAreFreeWhilePending : Prop :=
  ∀ (s : State), s.busy = true →
    (∀ off ∈ [0x01C, 0x020, 0x024, 0x028, 0x02C, 0x030, 0x034], Reads s off 4 (Config.freeWord s.draws)) ∧
    (∀ i n : Nat, AccessInTable (0x40000 + i) n → i < 0x10000 → ∃ v : Word, Reads s (0x40000 + i) n v ∧
      ∀ k < n, i + k < 65535 → v.extractLsb' (8 * k) 8 = Config.freeByte (s.draws + k)) ∧
    (∀ c, s.pending = some (.cmd c) →
      Reads s 0x008 4 (readValue { s with busy := false, pending := none } 0x008 4 ||| 1) ∧
      ∀ off n : Nat, AccessInTable off n → off ∉ [0x008, 0x01C, 0x020, 0x024, 0x028, 0x02C, 0x030, 0x034] →
        ¬ (0x40000 ≤ off ∧ off < 0x50000) →
        Reads s off n (readValue { s with busy := false, pending := none } off n))

/-- 10 section 7 and section 12 (R35, R45): every TABLE entry reads the generated constant, zero-extended, unless table
initialisation is in progress: then it reads a free value. -/
def Obligations.TableReads : Prop :=
  ∀ (s : State) (i : Byte),
    (s.pending ≠ some .init → Reads s (0x400 + 4 * i.toNat) 4 (BitVec.ofNat 32 (tableEntry i).toNat)) ∧
    (s.pending = some .init → Reads s (0x400 + 4 * i.toNat) 4 (Config.freeWord s.draws))

/-- 20 R53: every reserved offset of 10 R37 reads 0, and a write of it (while BUSY = 0) is ignored. -/
def Obligations.ReservedOffsetsReadZero : Prop :=
  ∀ (s : State) (off n : Nat), AccessInTable off n → ReservedOffset s off →
    Reads s off n 0 ∧ (s.busy = false → ∀ v, Writes s off n v s)

/-- 20 R54: while BUSY = 0, a write to a read-only register, to TABLE or to PAYLOAD_OUT is ignored without error; a
write of STATUS never changes BUSY, raises no error, and changes ERRCODE only by clearing it with ERR; a write to a RW
register stores its writable bits, and the register reads back with its reserved bits 0. -/
def Obligations.ReadOnlyWritesAreIgnored : Prop :=
  ∀ (s : State) (v : Word), s.busy = false →
    (∀ off ∈ [0x000, 0x01C, 0x020, 0x024, 0x028, 0x02C, 0x030, 0x034, 0x038], Writes s off 4 v s) ∧
    (∀ i < 256, Writes s (0x400 + 4 * i) 4 v s) ∧
    (∀ off n, AccessInTable off n → 0x40000 ≤ off → off < 0x50000 → Writes s off n v s) ∧
    (∃ t, Writes s 0x008 4 v t ∧ t.busy = s.busy ∧ (t.err = true → s.err = true) ∧
      (t.errcode = s.errcode ∨ (t.errcode = .noError ∧ t.err = false))) ∧
    (∃ t, Writes s 0x004 4 v t ∧ t = { s with ctrlIe := v.getLsbD 0 } ∧ Reads t 0x004 4 (v &&& 1)) ∧
    (∃ t, Writes s 0x010 4 v t ∧ t = { s with start := v } ∧ Reads t 0x010 4 v) ∧
    (∃ t, Writes s 0x014 4 v t ∧ t = { s with len := v } ∧ Reads t 0x014 4 v) ∧
    (∃ t, Writes s 0x018 4 v t ∧ t.din = v.extractLsb' 0 8 ∧ t = { s with din := t.din } ∧
      Reads t 0x018 4 (v &&& 0xFF))

/-- 20 section 5 (R55): no read has a side effect. A read that goes on changes nothing but the host's record of the
answer and the count of free values, which are the model's own (log 2, 11). -/
def Obligations.ReadsHaveNoSideEffect : Prop :=
  ∀ (s t : State) (addr n : Nat) (es : List Event), step { s with events := .read addr n :: es } = .next t →
    t = { s with events := es, responses := t.responses, draws := t.draws } ∧
    ∃ v, t.responses = v :: s.responses

/-! ## The buffers -/

/-- 20 section 4 (R50): a host write to DATA while BUSY = 0 stores byte k of the value at index i + k, below BUF_BYTES,
and marks it written; every other byte of DATA, and everything else, is unchanged. -/
def Obligations.DataWriteStoresLittleEndian : Prop :=
  ∀ (s : State) (i n : Nat) (v : Word), s.busy = false → AccessInTable (0x20000 + i) n → i < 0x20000 →
    ∃ t, Writes s (0x20000 + i) n v t ∧ t = { s with data := t.data } ∧
      (∀ k < n, i + k < s.cfg.bufBytes → Memory.read t.data (i + k) = some (v.extractLsb' (8 * k) 8)) ∧
      (∀ a, ¬ (i ≤ a ∧ a < i + n ∧ a < s.cfg.bufBytes) → Memory.read t.data a = Memory.read s.data a)

/-- 20 section 4 (R50, R65): byte k of what a read of DATA returns is the byte at index i + k if it is written, a free
value if it is not, and 0 at and above BUF_BYTES; the bits above the value are 0. -/
def Obligations.DataReadIsLittleEndian : Prop :=
  ∀ (s : State) (i n : Nat), AccessInTable (0x20000 + i) n → i < 0x20000 →
    ∃ v : Word, Reads s (0x20000 + i) n v ∧ v.toNat < 2 ^ (8 * n) ∧
      ∀ k < n, v.extractLsb' (8 * k) 8 =
        if i + k < s.cfg.bufBytes then (Memory.read s.data (i + k)).getD (Config.freeByte (s.draws + k)) else 0

/-- 20 section 4 (R50, R65): the same for PAYLOAD_OUT while BUSY = 0; its byte 65535 is reserved. -/
def Obligations.PayloadOutReadIsLittleEndian : Prop :=
  ∀ (s : State) (i n : Nat), AccessInTable (0x40000 + i) n → i < 0x10000 → s.busy = false →
    ∃ v : Word, Reads s (0x40000 + i) n v ∧ v.toNat < 2 ^ (8 * n) ∧
      ∀ k < n, v.extractLsb' (8 * k) 8 =
        if i + k < 65535 then (Memory.read s.payloadOut (i + k)).getD (Config.freeByte (s.draws + k)) else 0

/-- 20 section 4 (the derived law of R52): one 32-bit write and four byte writes of the same bytes in address order
leave the same block. -/
def Obligations.WordWriteEqualsFourByteWrites : Prop :=
  ∀ (s : State) (i : Nat) (v : Word), s.busy = false → Memory.Wf s.data → i % 4 = 0 → i + 4 ≤ s.cfg.bufBytes →
    i + 4 ≤ 0x20000 →
    ∃ t t1 t2 t3, Writes s (0x20000 + i) 4 v t ∧
      Writes s (0x20000 + i) 1 (BitVec.ofNat 32 (v.toNat % 256)) t1 ∧
      Writes t1 (0x20000 + i + 1) 1 (BitVec.ofNat 32 (v.toNat / 256 % 256)) t2 ∧
      Writes t2 (0x20000 + i + 2) 1 (BitVec.ofNat 32 (v.toNat / 65536 % 256)) t3 ∧
      Writes t3 (0x20000 + i + 3) 1 (BitVec.ofNat 32 (v.toNat / 16777216)) t

/-! ## The whole machine -/

/-- Every step keeps `Inv` (10 R38, R43, 41 R106, R107, R110; 10 R22 to R24; log 12): BUSY is the pending record, the
sampled operands are the live registers and their window is in range, ERRCODE agrees with ERR, the buffers are
canonical and in bounds, CONSUMED and the CRC registers agree with RESULT, and a payload reported is a payload
written. -/
def Obligations.StepKeepsInvariant : Prop :=
  ∀ s t : State, Inv s → step s = .next t → Inv t

/-- The invariant holds after reset, for all legal parameters, and in `State.reset`, with the parameters the model chose
(log 1), which `rst` takes to itself. -/
def Obligations.ResetMeetsInvariant : Prop :=
  (∀ cfg : Config, cfg.Legal → Inv (State.resetWith cfg)) ∧ Inv State.reset ∧
  ∀ es, step { State.reset with events := .rst :: es } = .next { State.reset with events := es }

/-- No step changes a parameter (00 section 4; log 1). -/
def Obligations.ParametersNeverChange : Prop :=
  ∀ s t : State, step s = .next t → t.cfg = s.cfg

/-- 10 section 5 (R30): only the completion of a CRC command, or `rst`, writes the accumulator, and what it writes. -/
def Obligations.OnlyCrcCommandsWriteCrc : Prop :=
  ∀ s t : State, step s = .next t →
    t.crc = s.crc ∨ (ResetNext s ∧ t.crc = 0xFFFF) ∨
    (EngineMoves s ∧ ∃ c, Completing s c ∧
      ((c.op = .crcInit ∧ t.crc = 0xFFFF) ∨ (c.op = .crcByte ∧ t.crc = crcUpdate s.crc c.din) ∨
        (c.op = .crcSpan ∧ t.crc = crc16 (window s c))))

/-- 10 section 6 (R31, R32) and, for PAYLOAD_OUT, section 7 (R34): only the completion of a PARSE, or `rst`, writes RESULT,
the other parse registers or PAYLOAD_OUT. -/
def Obligations.OnlyParseWritesResults : Prop :=
  ∀ s t : State, step s = .next t → ¬ ResetNext s →
    ¬ (EngineMoves s ∧ ∃ c, Completing s c ∧ c.op = .parse) →
    t.result = s.result ∧ t.frameCounter = s.frameCounter ∧ t.payloadSize = s.payloadSize ∧ t.hdrRx = s.hdrRx ∧
    t.hdrCalc = s.hdrCalc ∧ t.payRx = s.payRx ∧ t.payCalc = s.payCalc ∧ t.consumed = s.consumed ∧
    t.payloadOut = s.payloadOut

/-- 10 sections 2, 4 and 7 (R19, R27 to R29, R33) with section 3 and 60 section 2 (R21, R127: a write while BUSY = 1 is
ignored): only a host write made while BUSY = 0, or `rst`, changes CTRL.IE, START, LEN, DIN or a byte of DATA: the
engine never writes its input. -/
def Obligations.OnlyHostWritesOperandsAndData : Prop :=
  ∀ s t : State, step s = .next t → ¬ ResetNext s → ¬ (HostWriteNext s ∧ s.busy = false) →
    t.ctrlIe = s.ctrlIe ∧ t.start = s.start ∧ t.len = s.len ∧ t.din = s.din ∧
    ∀ a, Memory.read t.data a = Memory.read s.data a

/-- 10 section 3 (R21, R22): BUSY rises only by the acceptance of a command or by `rst`, and falls only at the engine's
turn or by `rst`; DONE is set only by the completion of an accepted command, every such completion sets it, and it is
cleared only by acceptance, by bit 1 of a STATUS write made while BUSY = 0, or by `rst`. -/
def Obligations.BusyAndDoneTransitions : Prop :=
  ∀ s t : State, step s = .next t →
    (s.busy = false → t.busy = true → ResetNext s ∨
      ∃ v i, WriteNext s 0x00C v ∧ decode v = .ok i ∧ t.pending = some (.cmd (sampleOperands i s)) ∧ t.done = false) ∧
    (s.busy = true → t.busy = false → ResetNext s ∨ EngineMoves s) ∧
    (s.done = false → t.done = true → EngineMoves s ∧ ∃ c, Completing s c) ∧
    (∀ c, EngineMoves s → Completing s c → t.done = true ∧ t.busy = false) ∧
    (s.done = true → t.done = false → ResetNext s ∨ (s.busy = false ∧ t.busy = true) ∨
      (s.busy = false ∧ ∃ v, WriteNext s 0x008 v ∧ v.getLsbD 1 = true))

/-- 10 section 3 (R23, R24) with the causes of 60 section 2 (R130): ERR rises, and ERRCODE takes a code, only with a
command error of that code; ERR falls, with ERRCODE, only by bit 2 of a STATUS write made while BUSY = 0, or by
`rst`. -/
def Obligations.ErrorTransitions : Prop :=
  ∀ s t : State, step s = .next t → ¬ ResetNext s →
    (t.err = s.err ∧ t.errcode = s.errcode) ∨
    (t = { s with events := t.events, err := true, errcode := t.errcode } ∧
      ((t.errcode = .busyWrite ∧ s.busy = true ∧ HostWriteNext s) ∨
        (∃ v e, t.errcode = .illegalCmd ∧ s.busy = false ∧ WriteNext s 0x00C v ∧ decode v = .error e) ∨
        (∃ v i, t.errcode = .windowRange ∧ s.busy = false ∧ WriteNext s 0x00C v ∧ decode v = .ok i ∧
          (i = .crcSpan ∨ i = .parse) ∧ s.cfg.bufBytes < s.start.toNat + s.len.toNat))) ∨
    (t.err = false ∧ t.errcode = .noError ∧ s.busy = false ∧ ∃ v, WriteNext s 0x008 v ∧ v.getLsbD 2 = true)

/-- 60 section 4 (R133, R134): `irq` is asserted exactly while IE and a source bit are 1; a step asserts it only by a
completion, by a command error, or by a write of CTRL that sets IE over a source already set. -/
def Obligations.InterruptSources : Prop :=
  (∀ s : State, irq s = true ↔ s.ctrlIe = true ∧ (s.done = true ∨ s.err = true)) ∧
  ∀ s t : State, step s = .next t → irq s = false → irq t = true →
    (EngineMoves s ∧ ∃ c, Completing s c) ∨ (s.err = false ∧ t.err = true ∧ HostWriteNext s) ∨
    (s.ctrlIe = false ∧ ∃ v, WriteNext s 0x004 v ∧ v.getLsbD 0 = true)

/-- 60 section 2 and 70 section 4 (R129, R153): whatever allowed transactions and engine turns are still to come, a
pending command or table initialisation has ended after at most one step more than there are events. This is the
model's form of weak fairness (log 3). -/
def Obligations.PendingWorkCompletes : Prop :=
  ∀ s : State, Inv s → s.busy = true → (∀ e ∈ s.events, AllowedTransaction s.cfg e) →
    ∃ k t, k ≤ s.events.length + 1 ∧ core.run k s = .next t ∧ t.busy = false ∧
      (∀ c, s.pending = some (.cmd c) → t.done = true)

/-! ## The CRC functions -/

/-- 40 section 3 (R92; the spec marks it as general knowledge): the table form of the CRC equals the bit-serial,
MSB-first form, on every byte string. -/
def Obligations.TableCrcEqualsBitSerialCrc : Prop :=
  ∀ w : List Byte, crc16 w = w.foldl crcBitSerial 0xFFFF

/-! ## Host-side reference -/

/-- 45 section 1 (R113 to R115): an encoded frame has 8 + n + 2 bytes; a payload of more than 65535 bytes fails, and
one of exactly 65535 does not. -/
def Obligations.EncodedFrameLength : Prop :=
  ∀ (payload : List Byte) (fc : Half),
    (payload.length ≤ 65535 → ∃ f, createFrame payload fc = .ok f ∧ f.length = 8 + payload.length + 2) ∧
    (65535 < payload.length → createFrame payload fc = .error .payloadTooLarge)

/-- 95 section 1 (S9, the round trip): parsing an encoded frame succeeds, whatever bytes follow it, and gives back the
counter and the payload, both CRCs, and the frame's length as consumed. -/
def Obligations.ParseOfEncodedFrame : Prop :=
  ∀ (payload f extra : List Byte) (fc : Half), createFrame payload fc = .ok f →
    parseFrame (f ++ extra) =
      { res := .success, fc := fc, ps := BitVec.ofNat 16 payload.length
        hrx := crc16 (f.take 6), hcalc := crc16 (f.take 6), prx := crc16 payload, pcalc := crc16 payload
        consumed := f.length, payload := payload }

/-- The converse, from 30 section 2 and 41 section 1: a parse that succeeds has found an encoded frame at the start of
its window: encoding the counter and payload it reports gives back the bytes it consumed. -/
def Obligations.ParsedFrameWasEncoded : Prop :=
  ∀ w : List Byte, (parseFrame w).res = .success →
    createFrame (parseFrame w).payload (parseFrame w).fc = .ok (w.take (parseFrame w).consumed) ∧
    (parseFrame w).consumed ≤ w.length

/-- The round trip on the block (95 section 1, S9; 41 section 2): with an encoded frame written at START and a window
that holds it, PARSE reports SUCCESS, the counter, the size and the frame's length, and PAYLOAD_OUT holds the payload,
whatever follows the frame in the window, written or not. -/
def Obligations.BlockParsesEncodedFrame : Prop :=
  ∀ (s : State) (c : Command) (payload f : List Byte) (fc : Half), Completing s c → c.op = .parse →
    createFrame payload fc = .ok f → DataHolds s c.start.toNat f → f.length ≤ c.len.toNat →
    ∃ t, exec .parse s = .next t ∧ t.result = .success ∧ t.frameCounter = fc ∧
      t.payloadSize.toNat = payload.length ∧ t.consumed.toNat = f.length ∧
      t.hdrCalc = t.hdrRx ∧ t.payCalc = crc16 payload ∧ t.payRx = crc16 payload ∧
      (∀ k < payload.length, Memory.read t.payloadOut k = payload[k]?) ∧
      t.busy = false ∧ t.done = true ∧ t.pending = none

/-- 45 section 2 (R119, R120): the scanner ends: more iterations than |data| + 1 change nothing; and its position stays
within the data. -/
def Obligations.ScannerTerminates : Prop :=
  ∀ data : List Byte, (findFrames data).2 ≤ data.length ∧
    ∀ fuel, data.length + 1 ≤ fuel → scanFrom fuel data 0 = findFrames data

/-- 95 section 1 (S6), 45 section 2 (R117): data without FA CE anywhere gives no frame and consumes all but the last
byte. -/
def Obligations.ScanWithoutPreamble : Prop :=
  ∀ data : List Byte, (∀ k, ¬ (data[k]? = some (0xFA : Byte) ∧ data[k + 1]? = some (0xCE : Byte))) →
    findFrames data = ([], data.length - 1)

/-- 45 section 2 (R116, R118): the scanner finds every frame of a stream of encoded frames, in order, and consumes the
whole stream. -/
def Obligations.ScannerFindsEveryFrame : Prop :=
  ∀ (frames : List (Half × List Byte)) (encoded : List (List Byte)),
    frames.map (fun p => createFrame p.2 p.1) = encoded.map .ok →
    findFrames encoded.flatten = (frames, encoded.flatten.length)

/-- 45 section 2 (R123): whole frames only: each frame the scanner reports stands, encoded, in the data. -/
def Obligations.ScannerReportsOnlyEncodedFrames : Prop :=
  ∀ (data payload : List Byte) (fc : Half), (fc, payload) ∈ (findFrames data).1 →
    ∃ before f after, createFrame payload fc = .ok f ∧ data = before ++ f ++ after

/-- 45 section 2 (R121): the scanner run on the block gives what `find_frames` gives on the same bytes, whatever each
command's latency. DATA holds the stream; every read and write is a transaction; no command error is recorded and DATA
is unchanged. How the host's `wait` sees a latency is the model's form (log 16). -/
def Obligations.BlockScanAgreesWithReference : Prop :=
  ∀ (s : State) (data : List Byte) (polls : Nat → Nat), Inv s → data.length ≤ s.cfg.bufBytes → DataHolds s 0 data →
    ∃ t, scanBlock polls data.length s = .next (findFrames data, t) ∧ Inv t ∧ t.err = s.err ∧
      t.errcode = s.errcode ∧ ∀ a, Memory.read t.data a = Memory.read s.data a
end

