-- ==== Sys2Proof/Laws/Memory.lean ====
section
/-! SUPPORT. The laws of the two byte buffers: read after store, and that a store keeps the canonical form and the
bounds. -/

namespace Sys2Proof.Machine.Memory

open Sys2Proof

@[simp] theorem read_nil (i : Nat) : read [] i = none := rfl

theorem read_cons (c : Host.Cell) (m : Memory) (i : Nat) : read (c :: m) i = if c.1 = i then some c.2 else read m i := rfl

theorem read_append (m m' : Memory) (i : Nat) : read (m ++ m') i = (read m i).or (read m' i) := by
  induction m with
  | nil => simp
  | cons c m ih =>
    simp only [List.cons_append, read_cons]
    split <;> simp [ih]

/-- A filter on the index keeps the bytes whose index passes it, and no others. -/
theorem read_filter (p : Nat → Bool) (m : Memory) (i : Nat) :
    read (m.filter fun c => p c.1) i = if p i then read m i else none := by
  induction m with
  | nil => simp
  | cons c m ih =>
    by_cases hp : p c.1 <;> by_cases hc : c.1 = i <;> simp_all [read_cons]

theorem read_cells (a i : Nat) (bs : List Byte) :
    read (cells a bs) i = if a ≤ i then bs[i - a]? else none := by
  induction bs generalizing a with
  | nil => simp [cells]
  | cons b bs ih =>
    simp only [cells, read_cons, ih]
    by_cases h : a = i
    · simp [h]
    · by_cases h1 : a + 1 ≤ i
      · have e : i - a = (i - (a + 1)) + 1 := by omega
        simp [h, h1, e, show a ≤ i by omega]
      · simp [h, h1, show ¬ a ≤ i by omega]

@[simp] theorem store_nil (m : Memory) (a : Nat) : store m a [] = m := rfl

theorem store_of_ne_nil (m : Memory) (a : Nat) {bs : List Byte} (h : bs ≠ []) :
    store m a bs = m.filter (fun c => c.1 < a) ++ (cells a bs ++ m.filter (fun c => a + bs.length ≤ c.1)) := by
  cases bs with
  | nil => exact absurd rfl h
  | cons b bs => rfl

/-- Everything a store does to reads: the stored bytes inside, the old ones outside. -/
theorem read_store (m : Memory) (a i : Nat) (bs : List Byte) :
    read (store m a bs) i = if a ≤ i ∧ i < a + bs.length then bs[i - a]? else read m i := by
  by_cases hbs : bs = []
  · subst hbs
    simp only [store_nil, List.length_nil]
    rw [if_neg (by omega)]
  rw [store_of_ne_nil m a hbs, read_append, read_append, read_cells,
    read_filter (fun k => decide (k < a)), read_filter (fun k => decide (a + bs.length ≤ k))]
  by_cases h1 : i < a
  · simp [h1, show ¬ a ≤ i by omega, show ¬ a + bs.length ≤ i by omega]
  · by_cases h2 : i < a + bs.length
    · have h3 : i - a < bs.length := by omega
      simp [h1, h2, h3, show a ≤ i by omega]
    · have h3 : bs.length ≤ i - a := by omega
      simp [h1, h2, h3, show a ≤ i by omega, show a + bs.length ≤ i by omega]

theorem mem_cells {a : Nat} {bs : List Byte} {c : Host.Cell} (h : c ∈ cells a bs) : a ≤ c.1 ∧ c.1 < a + bs.length := by
  induction bs generalizing a with
  | nil => simp [cells] at h
  | cons b bs ih =>
    rcases List.mem_cons.1 h with rfl | h
    · simp
    · have := ih h
      simp only [List.length_cons]
      omega

theorem wf_cells (a : Nat) (bs : List Byte) : Wf (cells a bs) := by
  induction bs generalizing a with
  | nil => exact List.Pairwise.nil
  | cons b bs ih =>
    refine List.Pairwise.cons (fun c hc => ?_) (ih (a + 1))
    have := (mem_cells hc).1
    simp only
    omega

/-- A store keeps the canonical form. -/
theorem wf_store {m : Memory} (h : Wf m) (a : Nat) (bs : List Byte) : Wf (store m a bs) := by
  by_cases hbs : bs = []
  · subst hbs
    exact h
  unfold Wf
  rw [store_of_ne_nil m a hbs]
  refine List.pairwise_append.2 ⟨h.filter _, List.pairwise_append.2 ⟨wf_cells a bs, h.filter _, ?_⟩, ?_⟩
  · intro c hc d hd
    have h1 := mem_cells hc
    have h2 := (List.mem_filter.1 hd).2
    simp only [decide_eq_true_eq] at h2
    omega
  · intro c hc d hd
    have h1 := (List.mem_filter.1 hc).2
    simp only [decide_eq_true_eq] at h1
    rcases List.mem_append.1 hd with hd | hd
    · have := mem_cells hd
      omega
    · have h2 := (List.mem_filter.1 hd).2
      simp only [decide_eq_true_eq] at h2
      omega

/-- A store that ends below the bound keeps the bound. -/
theorem below_store {m : Memory} {n : Nat} (h : Below m n) {a : Nat} {bs : List Byte}
    (hb : bs = [] ∨ a + bs.length ≤ n) : Below (store m a bs) n := by
  by_cases hbs : bs = []
  · subst hbs
    exact h
  intro c hc
  rw [store_of_ne_nil m a hbs] at hc
  rcases List.mem_append.1 hc with hc | hc
  · exact h c (List.mem_filter.1 hc).1
  · rcases List.mem_append.1 hc with hc | hc
    · have := mem_cells hc
      rcases hb with hb | hb
      · exact absurd hb hbs
      · omega
    · exact h c (List.mem_filter.1 hc).1

/-- A byte below every listed index is unwritten. -/
theorem read_eq_none_of_lt {m : Memory} {i : Nat} (h : ∀ c ∈ m, i < c.1) : read m i = none := by
  induction m with
  | nil => rfl
  | cons c m ih =>
    have hc := h c (by simp)
    rw [read_cons, if_neg (by omega), ih fun d hd => h d (by simp [hd])]

/-- Buffers in canonical form that read the same are the same list. -/
theorem ext_of_wf {m m' : Memory} (h : Wf m) (h' : Wf m') (e : ∀ i, read m i = read m' i) : m = m' := by
  induction m generalizing m' with
  | nil =>
    cases m' with
    | nil => rfl
    | cons d m' => simpa [read_cons] using e d.1
  | cons c m ih =>
    cases m' with
    | nil => simpa [read_cons] using e c.1
    | cons d m' =>
      have hc := List.pairwise_cons.1 h
      have hd := List.pairwise_cons.1 h'
      have key : c.1 = d.1 := by
        rcases Nat.lt_trichotomy c.1 d.1 with hlt | heq | hgt
        · have := e c.1
          rw [read_cons, if_pos rfl, read_eq_none_of_lt] at this
          · simp at this
          · intro x hx
            rcases List.mem_cons.1 hx with rfl | hx
            · exact hlt
            · exact Nat.lt_trans hlt (hd.1 x hx)
        · exact heq
        · have := e d.1
          rw [read_cons (c := d), if_pos rfl, read_eq_none_of_lt] at this
          · simp at this
          · intro x hx
            rcases List.mem_cons.1 hx with rfl | hx
            · exact hgt
            · exact Nat.lt_trans hgt (hc.1 x hx)
      have val : c.2 = d.2 := by
        have := e c.1
        rw [read_cons, read_cons, if_pos rfl, if_pos key.symm] at this
        exact Option.some.inj this
      have hcd : c = d := Prod.ext key val
      subst hcd
      congr 1
      refine ih hc.2 hd.2 fun i => ?_
      by_cases hi : c.1 = i
      · subst hi
        rw [read_eq_none_of_lt hc.1, read_eq_none_of_lt hd.1]
      · have := e i
        rwa [read_cons, read_cons, if_neg hi, if_neg hi] at this

end Sys2Proof.Machine.Memory
end

