-- ==== Sys2Proof/Laws/Operands.lean ====
section
/-! SUPPORT. Windows, bytes and words. -/

namespace Sys2Proof.Machine

@[simp] theorem bytesOfWord_length (n : Nat) (v : Word) : (bytesOfWord n v).length = n := by simp [bytesOfWord]

@[simp] theorem window_length (s : State) (c : Command) : (window s c).length = c.len.toNat := by simp [window]

theorem engRead_of_written {s : State} {i : Nat} {b : Byte} (h : Memory.read s.data i = some b) (j : Nat) :
    engRead s j i = b := by simp [engRead, h]

/-- A window whose bytes are all written is those bytes: no free value takes part. -/
theorem window_of_written {s : State} {c : Command} {w : List Byte} (hl : c.len.toNat = w.length)
    (h : ∀ j, j < w.length → Memory.read s.data (c.start.toNat + j) = w[j]?) : window s c = w := by
  apply List.ext_getElem
  · simp [hl]
  · intro j h1 h2
    have := h j h2
    rw [List.getElem?_eq_getElem h2] at this
    simp [window, engRead_of_written this]

/-- The window reads DATA and the count of free values, and nothing else of the state. -/
theorem window_congr {s t : State} (c : Command) (hd : s.data = t.data) (hn : s.draws = t.draws) :
    window s c = window t c := by simp [window, engRead, hd, hn]

/-- The bytes of DATA are stored below BUF_BYTES or not at all. -/
theorem writeData_below {s : State} (h : Memory.Below s.data s.cfg.bufBytes) (i n : Nat) (v : Word) :
    Memory.Below (writeData i n v s).data s.cfg.bufBytes := by
  refine Memory.below_store h ?_
  by_cases hi : i ≤ s.cfg.bufBytes
  · right
    simp only [List.length_take, bytesOfWord_length]
    omega
  · left
    simp [show s.cfg.bufBytes - i = 0 by omega]

end Sys2Proof.Machine
end

