-- ==== Sys2Proof/Laws/State.lean ====
section
/-! SUPPORT. For each named update of State, what each field is after it: one lemma a field, so that no proof unfolds a
record update. -/

namespace Sys2Proof.Machine

@[simp] theorem raiseCmdError_cfg (code : ErrCode) (s : State) : (raiseCmdError code s).cfg = s.cfg := rfl
@[simp] theorem raiseCmdError_ctrlIe (code : ErrCode) (s : State) : (raiseCmdError code s).ctrlIe = s.ctrlIe := rfl
@[simp] theorem raiseCmdError_busy (code : ErrCode) (s : State) : (raiseCmdError code s).busy = s.busy := rfl
@[simp] theorem raiseCmdError_done (code : ErrCode) (s : State) : (raiseCmdError code s).done = s.done := rfl
@[simp] theorem raiseCmdError_err (code : ErrCode) (s : State) : (raiseCmdError code s).err = true := rfl
@[simp] theorem raiseCmdError_errcode (code : ErrCode) (s : State) : (raiseCmdError code s).errcode = code := rfl
@[simp] theorem raiseCmdError_start (code : ErrCode) (s : State) : (raiseCmdError code s).start = s.start := rfl
@[simp] theorem raiseCmdError_len (code : ErrCode) (s : State) : (raiseCmdError code s).len = s.len := rfl
@[simp] theorem raiseCmdError_din (code : ErrCode) (s : State) : (raiseCmdError code s).din = s.din := rfl
@[simp] theorem raiseCmdError_crc (code : ErrCode) (s : State) : (raiseCmdError code s).crc = s.crc := rfl
@[simp] theorem raiseCmdError_result (code : ErrCode) (s : State) : (raiseCmdError code s).result = s.result := rfl
@[simp] theorem raiseCmdError_frameCounter (code : ErrCode) (s : State) : (raiseCmdError code s).frameCounter = s.frameCounter := rfl
@[simp] theorem raiseCmdError_payloadSize (code : ErrCode) (s : State) : (raiseCmdError code s).payloadSize = s.payloadSize := rfl
@[simp] theorem raiseCmdError_hdrRx (code : ErrCode) (s : State) : (raiseCmdError code s).hdrRx = s.hdrRx := rfl
@[simp] theorem raiseCmdError_hdrCalc (code : ErrCode) (s : State) : (raiseCmdError code s).hdrCalc = s.hdrCalc := rfl
@[simp] theorem raiseCmdError_payRx (code : ErrCode) (s : State) : (raiseCmdError code s).payRx = s.payRx := rfl
@[simp] theorem raiseCmdError_payCalc (code : ErrCode) (s : State) : (raiseCmdError code s).payCalc = s.payCalc := rfl
@[simp] theorem raiseCmdError_consumed (code : ErrCode) (s : State) : (raiseCmdError code s).consumed = s.consumed := rfl
@[simp] theorem raiseCmdError_data (code : ErrCode) (s : State) : (raiseCmdError code s).data = s.data := rfl
@[simp] theorem raiseCmdError_payloadOut (code : ErrCode) (s : State) : (raiseCmdError code s).payloadOut = s.payloadOut := rfl
@[simp] theorem raiseCmdError_pending (code : ErrCode) (s : State) : (raiseCmdError code s).pending = s.pending := rfl
@[simp] theorem raiseCmdError_events (code : ErrCode) (s : State) : (raiseCmdError code s).events = s.events := rfl
@[simp] theorem raiseCmdError_responses (code : ErrCode) (s : State) : (raiseCmdError code s).responses = s.responses := rfl
@[simp] theorem raiseCmdError_draws (code : ErrCode) (s : State) : (raiseCmdError code s).draws = s.draws := rfl

@[simp] theorem writeStatus_cfg (v : Word) (s : State) : (writeStatus v s).cfg = s.cfg := rfl
@[simp] theorem writeStatus_ctrlIe (v : Word) (s : State) : (writeStatus v s).ctrlIe = s.ctrlIe := rfl
@[simp] theorem writeStatus_busy (v : Word) (s : State) : (writeStatus v s).busy = s.busy := rfl
@[simp] theorem writeStatus_done (v : Word) (s : State) : (writeStatus v s).done = (s.done && !v.getLsbD 1) := rfl
@[simp] theorem writeStatus_err (v : Word) (s : State) : (writeStatus v s).err = (s.err && !v.getLsbD 2) := rfl
@[simp] theorem writeStatus_errcode (v : Word) (s : State) : (writeStatus v s).errcode = (if v.getLsbD 2 then .noError else s.errcode) := rfl
@[simp] theorem writeStatus_start (v : Word) (s : State) : (writeStatus v s).start = s.start := rfl
@[simp] theorem writeStatus_len (v : Word) (s : State) : (writeStatus v s).len = s.len := rfl
@[simp] theorem writeStatus_din (v : Word) (s : State) : (writeStatus v s).din = s.din := rfl
@[simp] theorem writeStatus_crc (v : Word) (s : State) : (writeStatus v s).crc = s.crc := rfl
@[simp] theorem writeStatus_result (v : Word) (s : State) : (writeStatus v s).result = s.result := rfl
@[simp] theorem writeStatus_frameCounter (v : Word) (s : State) : (writeStatus v s).frameCounter = s.frameCounter := rfl
@[simp] theorem writeStatus_payloadSize (v : Word) (s : State) : (writeStatus v s).payloadSize = s.payloadSize := rfl
@[simp] theorem writeStatus_hdrRx (v : Word) (s : State) : (writeStatus v s).hdrRx = s.hdrRx := rfl
@[simp] theorem writeStatus_hdrCalc (v : Word) (s : State) : (writeStatus v s).hdrCalc = s.hdrCalc := rfl
@[simp] theorem writeStatus_payRx (v : Word) (s : State) : (writeStatus v s).payRx = s.payRx := rfl
@[simp] theorem writeStatus_payCalc (v : Word) (s : State) : (writeStatus v s).payCalc = s.payCalc := rfl
@[simp] theorem writeStatus_consumed (v : Word) (s : State) : (writeStatus v s).consumed = s.consumed := rfl
@[simp] theorem writeStatus_data (v : Word) (s : State) : (writeStatus v s).data = s.data := rfl
@[simp] theorem writeStatus_payloadOut (v : Word) (s : State) : (writeStatus v s).payloadOut = s.payloadOut := rfl
@[simp] theorem writeStatus_pending (v : Word) (s : State) : (writeStatus v s).pending = s.pending := rfl
@[simp] theorem writeStatus_events (v : Word) (s : State) : (writeStatus v s).events = s.events := rfl
@[simp] theorem writeStatus_responses (v : Word) (s : State) : (writeStatus v s).responses = s.responses := rfl
@[simp] theorem writeStatus_draws (v : Word) (s : State) : (writeStatus v s).draws = s.draws := rfl

@[simp] theorem acceptCommand_cfg (i : Instr) (s : State) : (acceptCommand i s).cfg = s.cfg := rfl
@[simp] theorem acceptCommand_ctrlIe (i : Instr) (s : State) : (acceptCommand i s).ctrlIe = s.ctrlIe := rfl
@[simp] theorem acceptCommand_busy (i : Instr) (s : State) : (acceptCommand i s).busy = true := rfl
@[simp] theorem acceptCommand_done (i : Instr) (s : State) : (acceptCommand i s).done = false := rfl
@[simp] theorem acceptCommand_err (i : Instr) (s : State) : (acceptCommand i s).err = s.err := rfl
@[simp] theorem acceptCommand_errcode (i : Instr) (s : State) : (acceptCommand i s).errcode = s.errcode := rfl
@[simp] theorem acceptCommand_start (i : Instr) (s : State) : (acceptCommand i s).start = s.start := rfl
@[simp] theorem acceptCommand_len (i : Instr) (s : State) : (acceptCommand i s).len = s.len := rfl
@[simp] theorem acceptCommand_din (i : Instr) (s : State) : (acceptCommand i s).din = s.din := rfl
@[simp] theorem acceptCommand_crc (i : Instr) (s : State) : (acceptCommand i s).crc = s.crc := rfl
@[simp] theorem acceptCommand_result (i : Instr) (s : State) : (acceptCommand i s).result = s.result := rfl
@[simp] theorem acceptCommand_frameCounter (i : Instr) (s : State) : (acceptCommand i s).frameCounter = s.frameCounter := rfl
@[simp] theorem acceptCommand_payloadSize (i : Instr) (s : State) : (acceptCommand i s).payloadSize = s.payloadSize := rfl
@[simp] theorem acceptCommand_hdrRx (i : Instr) (s : State) : (acceptCommand i s).hdrRx = s.hdrRx := rfl
@[simp] theorem acceptCommand_hdrCalc (i : Instr) (s : State) : (acceptCommand i s).hdrCalc = s.hdrCalc := rfl
@[simp] theorem acceptCommand_payRx (i : Instr) (s : State) : (acceptCommand i s).payRx = s.payRx := rfl
@[simp] theorem acceptCommand_payCalc (i : Instr) (s : State) : (acceptCommand i s).payCalc = s.payCalc := rfl
@[simp] theorem acceptCommand_consumed (i : Instr) (s : State) : (acceptCommand i s).consumed = s.consumed := rfl
@[simp] theorem acceptCommand_data (i : Instr) (s : State) : (acceptCommand i s).data = s.data := rfl
@[simp] theorem acceptCommand_payloadOut (i : Instr) (s : State) : (acceptCommand i s).payloadOut = s.payloadOut := rfl
@[simp] theorem acceptCommand_pending (i : Instr) (s : State) : (acceptCommand i s).pending = some (.cmd (sampleOperands i s)) := rfl
@[simp] theorem acceptCommand_events (i : Instr) (s : State) : (acceptCommand i s).events = s.events := rfl
@[simp] theorem acceptCommand_responses (i : Instr) (s : State) : (acceptCommand i s).responses = s.responses := rfl
@[simp] theorem acceptCommand_draws (i : Instr) (s : State) : (acceptCommand i s).draws = s.draws := rfl

@[simp] theorem finishCommand_cfg (s : State) : (finishCommand s).cfg = s.cfg := rfl
@[simp] theorem finishCommand_ctrlIe (s : State) : (finishCommand s).ctrlIe = s.ctrlIe := rfl
@[simp] theorem finishCommand_busy (s : State) : (finishCommand s).busy = false := rfl
@[simp] theorem finishCommand_done (s : State) : (finishCommand s).done = true := rfl
@[simp] theorem finishCommand_err (s : State) : (finishCommand s).err = s.err := rfl
@[simp] theorem finishCommand_errcode (s : State) : (finishCommand s).errcode = s.errcode := rfl
@[simp] theorem finishCommand_start (s : State) : (finishCommand s).start = s.start := rfl
@[simp] theorem finishCommand_len (s : State) : (finishCommand s).len = s.len := rfl
@[simp] theorem finishCommand_din (s : State) : (finishCommand s).din = s.din := rfl
@[simp] theorem finishCommand_crc (s : State) : (finishCommand s).crc = s.crc := rfl
@[simp] theorem finishCommand_result (s : State) : (finishCommand s).result = s.result := rfl
@[simp] theorem finishCommand_frameCounter (s : State) : (finishCommand s).frameCounter = s.frameCounter := rfl
@[simp] theorem finishCommand_payloadSize (s : State) : (finishCommand s).payloadSize = s.payloadSize := rfl
@[simp] theorem finishCommand_hdrRx (s : State) : (finishCommand s).hdrRx = s.hdrRx := rfl
@[simp] theorem finishCommand_hdrCalc (s : State) : (finishCommand s).hdrCalc = s.hdrCalc := rfl
@[simp] theorem finishCommand_payRx (s : State) : (finishCommand s).payRx = s.payRx := rfl
@[simp] theorem finishCommand_payCalc (s : State) : (finishCommand s).payCalc = s.payCalc := rfl
@[simp] theorem finishCommand_consumed (s : State) : (finishCommand s).consumed = s.consumed := rfl
@[simp] theorem finishCommand_data (s : State) : (finishCommand s).data = s.data := rfl
@[simp] theorem finishCommand_payloadOut (s : State) : (finishCommand s).payloadOut = s.payloadOut := rfl
@[simp] theorem finishCommand_pending (s : State) : (finishCommand s).pending = none := rfl
@[simp] theorem finishCommand_events (s : State) : (finishCommand s).events = s.events := rfl
@[simp] theorem finishCommand_responses (s : State) : (finishCommand s).responses = s.responses := rfl
@[simp] theorem finishCommand_draws (s : State) : (finishCommand s).draws = s.draws := rfl

@[simp] theorem finishInit_cfg (s : State) : (finishInit s).cfg = s.cfg := rfl
@[simp] theorem finishInit_ctrlIe (s : State) : (finishInit s).ctrlIe = s.ctrlIe := rfl
@[simp] theorem finishInit_busy (s : State) : (finishInit s).busy = false := rfl
@[simp] theorem finishInit_done (s : State) : (finishInit s).done = s.done := rfl
@[simp] theorem finishInit_err (s : State) : (finishInit s).err = s.err := rfl
@[simp] theorem finishInit_errcode (s : State) : (finishInit s).errcode = s.errcode := rfl
@[simp] theorem finishInit_start (s : State) : (finishInit s).start = s.start := rfl
@[simp] theorem finishInit_len (s : State) : (finishInit s).len = s.len := rfl
@[simp] theorem finishInit_din (s : State) : (finishInit s).din = s.din := rfl
@[simp] theorem finishInit_crc (s : State) : (finishInit s).crc = s.crc := rfl
@[simp] theorem finishInit_result (s : State) : (finishInit s).result = s.result := rfl
@[simp] theorem finishInit_frameCounter (s : State) : (finishInit s).frameCounter = s.frameCounter := rfl
@[simp] theorem finishInit_payloadSize (s : State) : (finishInit s).payloadSize = s.payloadSize := rfl
@[simp] theorem finishInit_hdrRx (s : State) : (finishInit s).hdrRx = s.hdrRx := rfl
@[simp] theorem finishInit_hdrCalc (s : State) : (finishInit s).hdrCalc = s.hdrCalc := rfl
@[simp] theorem finishInit_payRx (s : State) : (finishInit s).payRx = s.payRx := rfl
@[simp] theorem finishInit_payCalc (s : State) : (finishInit s).payCalc = s.payCalc := rfl
@[simp] theorem finishInit_consumed (s : State) : (finishInit s).consumed = s.consumed := rfl
@[simp] theorem finishInit_data (s : State) : (finishInit s).data = s.data := rfl
@[simp] theorem finishInit_payloadOut (s : State) : (finishInit s).payloadOut = s.payloadOut := rfl
@[simp] theorem finishInit_pending (s : State) : (finishInit s).pending = none := rfl
@[simp] theorem finishInit_events (s : State) : (finishInit s).events = s.events := rfl
@[simp] theorem finishInit_responses (s : State) : (finishInit s).responses = s.responses := rfl
@[simp] theorem finishInit_draws (s : State) : (finishInit s).draws = s.draws := rfl

@[simp] theorem hardReset_cfg (s : State) : (hardReset s).cfg = s.cfg := rfl
@[simp] theorem hardReset_ctrlIe (s : State) : (hardReset s).ctrlIe = false := rfl
@[simp] theorem hardReset_busy (s : State) : (hardReset s).busy = decide (0 < s.cfg.tableInitLatency) := rfl
@[simp] theorem hardReset_done (s : State) : (hardReset s).done = false := rfl
@[simp] theorem hardReset_err (s : State) : (hardReset s).err = false := rfl
@[simp] theorem hardReset_errcode (s : State) : (hardReset s).errcode = .noError := rfl
@[simp] theorem hardReset_start (s : State) : (hardReset s).start = 0 := rfl
@[simp] theorem hardReset_len (s : State) : (hardReset s).len = 0 := rfl
@[simp] theorem hardReset_din (s : State) : (hardReset s).din = 0 := rfl
@[simp] theorem hardReset_crc (s : State) : (hardReset s).crc = 0xFFFF := rfl
@[simp] theorem hardReset_result (s : State) : (hardReset s).result = .noResult := rfl
@[simp] theorem hardReset_frameCounter (s : State) : (hardReset s).frameCounter = 0 := rfl
@[simp] theorem hardReset_payloadSize (s : State) : (hardReset s).payloadSize = 0 := rfl
@[simp] theorem hardReset_hdrRx (s : State) : (hardReset s).hdrRx = 0 := rfl
@[simp] theorem hardReset_hdrCalc (s : State) : (hardReset s).hdrCalc = 0 := rfl
@[simp] theorem hardReset_payRx (s : State) : (hardReset s).payRx = 0 := rfl
@[simp] theorem hardReset_payCalc (s : State) : (hardReset s).payCalc = 0 := rfl
@[simp] theorem hardReset_consumed (s : State) : (hardReset s).consumed = 0 := rfl
@[simp] theorem hardReset_data (s : State) : (hardReset s).data = [] := rfl
@[simp] theorem hardReset_payloadOut (s : State) : (hardReset s).payloadOut = [] := rfl
@[simp] theorem hardReset_pending (s : State) : (hardReset s).pending = (if 0 < s.cfg.tableInitLatency then some .init else none) := rfl
@[simp] theorem hardReset_events (s : State) : (hardReset s).events = s.events := rfl
@[simp] theorem hardReset_responses (s : State) : (hardReset s).responses = s.responses := rfl
@[simp] theorem hardReset_draws (s : State) : (hardReset s).draws = s.draws := rfl

@[simp] theorem writeParseOut_cfg (o : ParseOut) (s : State) : (writeParseOut o s).cfg = s.cfg := rfl
@[simp] theorem writeParseOut_ctrlIe (o : ParseOut) (s : State) : (writeParseOut o s).ctrlIe = s.ctrlIe := rfl
@[simp] theorem writeParseOut_busy (o : ParseOut) (s : State) : (writeParseOut o s).busy = s.busy := rfl
@[simp] theorem writeParseOut_done (o : ParseOut) (s : State) : (writeParseOut o s).done = s.done := rfl
@[simp] theorem writeParseOut_err (o : ParseOut) (s : State) : (writeParseOut o s).err = s.err := rfl
@[simp] theorem writeParseOut_errcode (o : ParseOut) (s : State) : (writeParseOut o s).errcode = s.errcode := rfl
@[simp] theorem writeParseOut_start (o : ParseOut) (s : State) : (writeParseOut o s).start = s.start := rfl
@[simp] theorem writeParseOut_len (o : ParseOut) (s : State) : (writeParseOut o s).len = s.len := rfl
@[simp] theorem writeParseOut_din (o : ParseOut) (s : State) : (writeParseOut o s).din = s.din := rfl
@[simp] theorem writeParseOut_crc (o : ParseOut) (s : State) : (writeParseOut o s).crc = s.crc := rfl
@[simp] theorem writeParseOut_result (o : ParseOut) (s : State) : (writeParseOut o s).result = o.res := rfl
@[simp] theorem writeParseOut_frameCounter (o : ParseOut) (s : State) : (writeParseOut o s).frameCounter = o.fc := rfl
@[simp] theorem writeParseOut_payloadSize (o : ParseOut) (s : State) : (writeParseOut o s).payloadSize = o.ps := rfl
@[simp] theorem writeParseOut_hdrRx (o : ParseOut) (s : State) : (writeParseOut o s).hdrRx = o.hrx := rfl
@[simp] theorem writeParseOut_hdrCalc (o : ParseOut) (s : State) : (writeParseOut o s).hdrCalc = o.hcalc := rfl
@[simp] theorem writeParseOut_payRx (o : ParseOut) (s : State) : (writeParseOut o s).payRx = o.prx := rfl
@[simp] theorem writeParseOut_payCalc (o : ParseOut) (s : State) : (writeParseOut o s).payCalc = o.pcalc := rfl
@[simp] theorem writeParseOut_consumed (o : ParseOut) (s : State) : (writeParseOut o s).consumed = BitVec.ofNat 17 o.consumed := rfl
@[simp] theorem writeParseOut_data (o : ParseOut) (s : State) : (writeParseOut o s).data = s.data := rfl
@[simp] theorem writeParseOut_payloadOut (o : ParseOut) (s : State) : (writeParseOut o s).payloadOut = (if o.res = .success then Memory.store s.payloadOut 0 o.payload else s.payloadOut) := rfl
@[simp] theorem writeParseOut_pending (o : ParseOut) (s : State) : (writeParseOut o s).pending = s.pending := rfl
@[simp] theorem writeParseOut_events (o : ParseOut) (s : State) : (writeParseOut o s).events = s.events := rfl
@[simp] theorem writeParseOut_responses (o : ParseOut) (s : State) : (writeParseOut o s).responses = s.responses := rfl
@[simp] theorem writeParseOut_draws (o : ParseOut) (s : State) : (writeParseOut o s).draws = s.draws := rfl

@[simp] theorem answerRead_cfg (v : Word) (s : State) : (answerRead v s).cfg = s.cfg := rfl
@[simp] theorem answerRead_ctrlIe (v : Word) (s : State) : (answerRead v s).ctrlIe = s.ctrlIe := rfl
@[simp] theorem answerRead_busy (v : Word) (s : State) : (answerRead v s).busy = s.busy := rfl
@[simp] theorem answerRead_done (v : Word) (s : State) : (answerRead v s).done = s.done := rfl
@[simp] theorem answerRead_err (v : Word) (s : State) : (answerRead v s).err = s.err := rfl
@[simp] theorem answerRead_errcode (v : Word) (s : State) : (answerRead v s).errcode = s.errcode := rfl
@[simp] theorem answerRead_start (v : Word) (s : State) : (answerRead v s).start = s.start := rfl
@[simp] theorem answerRead_len (v : Word) (s : State) : (answerRead v s).len = s.len := rfl
@[simp] theorem answerRead_din (v : Word) (s : State) : (answerRead v s).din = s.din := rfl
@[simp] theorem answerRead_crc (v : Word) (s : State) : (answerRead v s).crc = s.crc := rfl
@[simp] theorem answerRead_result (v : Word) (s : State) : (answerRead v s).result = s.result := rfl
@[simp] theorem answerRead_frameCounter (v : Word) (s : State) : (answerRead v s).frameCounter = s.frameCounter := rfl
@[simp] theorem answerRead_payloadSize (v : Word) (s : State) : (answerRead v s).payloadSize = s.payloadSize := rfl
@[simp] theorem answerRead_hdrRx (v : Word) (s : State) : (answerRead v s).hdrRx = s.hdrRx := rfl
@[simp] theorem answerRead_hdrCalc (v : Word) (s : State) : (answerRead v s).hdrCalc = s.hdrCalc := rfl
@[simp] theorem answerRead_payRx (v : Word) (s : State) : (answerRead v s).payRx = s.payRx := rfl
@[simp] theorem answerRead_payCalc (v : Word) (s : State) : (answerRead v s).payCalc = s.payCalc := rfl
@[simp] theorem answerRead_consumed (v : Word) (s : State) : (answerRead v s).consumed = s.consumed := rfl
@[simp] theorem answerRead_data (v : Word) (s : State) : (answerRead v s).data = s.data := rfl
@[simp] theorem answerRead_payloadOut (v : Word) (s : State) : (answerRead v s).payloadOut = s.payloadOut := rfl
@[simp] theorem answerRead_pending (v : Word) (s : State) : (answerRead v s).pending = s.pending := rfl
@[simp] theorem answerRead_events (v : Word) (s : State) : (answerRead v s).events = s.events := rfl
@[simp] theorem answerRead_responses (v : Word) (s : State) : (answerRead v s).responses = v :: s.responses := rfl
@[simp] theorem answerRead_draws (v : Word) (s : State) : (answerRead v s).draws = s.draws + 4 := rfl

@[simp] theorem writeData_cfg (i n : Nat) (v : Word) (s : State) : (writeData i n v s).cfg = s.cfg := rfl
@[simp] theorem writeData_ctrlIe (i n : Nat) (v : Word) (s : State) : (writeData i n v s).ctrlIe = s.ctrlIe := rfl
@[simp] theorem writeData_busy (i n : Nat) (v : Word) (s : State) : (writeData i n v s).busy = s.busy := rfl
@[simp] theorem writeData_done (i n : Nat) (v : Word) (s : State) : (writeData i n v s).done = s.done := rfl
@[simp] theorem writeData_err (i n : Nat) (v : Word) (s : State) : (writeData i n v s).err = s.err := rfl
@[simp] theorem writeData_errcode (i n : Nat) (v : Word) (s : State) : (writeData i n v s).errcode = s.errcode := rfl
@[simp] theorem writeData_start (i n : Nat) (v : Word) (s : State) : (writeData i n v s).start = s.start := rfl
@[simp] theorem writeData_len (i n : Nat) (v : Word) (s : State) : (writeData i n v s).len = s.len := rfl
@[simp] theorem writeData_din (i n : Nat) (v : Word) (s : State) : (writeData i n v s).din = s.din := rfl
@[simp] theorem writeData_crc (i n : Nat) (v : Word) (s : State) : (writeData i n v s).crc = s.crc := rfl
@[simp] theorem writeData_result (i n : Nat) (v : Word) (s : State) : (writeData i n v s).result = s.result := rfl
@[simp] theorem writeData_frameCounter (i n : Nat) (v : Word) (s : State) : (writeData i n v s).frameCounter = s.frameCounter := rfl
@[simp] theorem writeData_payloadSize (i n : Nat) (v : Word) (s : State) : (writeData i n v s).payloadSize = s.payloadSize := rfl
@[simp] theorem writeData_hdrRx (i n : Nat) (v : Word) (s : State) : (writeData i n v s).hdrRx = s.hdrRx := rfl
@[simp] theorem writeData_hdrCalc (i n : Nat) (v : Word) (s : State) : (writeData i n v s).hdrCalc = s.hdrCalc := rfl
@[simp] theorem writeData_payRx (i n : Nat) (v : Word) (s : State) : (writeData i n v s).payRx = s.payRx := rfl
@[simp] theorem writeData_payCalc (i n : Nat) (v : Word) (s : State) : (writeData i n v s).payCalc = s.payCalc := rfl
@[simp] theorem writeData_consumed (i n : Nat) (v : Word) (s : State) : (writeData i n v s).consumed = s.consumed := rfl
@[simp] theorem writeData_data (i n : Nat) (v : Word) (s : State) : (writeData i n v s).data = Memory.store s.data i ((bytesOfWord n v).take (s.cfg.bufBytes - i)) := rfl
@[simp] theorem writeData_payloadOut (i n : Nat) (v : Word) (s : State) : (writeData i n v s).payloadOut = s.payloadOut := rfl
@[simp] theorem writeData_pending (i n : Nat) (v : Word) (s : State) : (writeData i n v s).pending = s.pending := rfl
@[simp] theorem writeData_events (i n : Nat) (v : Word) (s : State) : (writeData i n v s).events = s.events := rfl
@[simp] theorem writeData_responses (i n : Nat) (v : Word) (s : State) : (writeData i n v s).responses = s.responses := rfl
@[simp] theorem writeData_draws (i n : Nat) (v : Word) (s : State) : (writeData i n v s).draws = s.draws := rfl

@[simp] theorem sampleOperands_op (i : Instr) (s : State) : (sampleOperands i s).op = i := rfl
@[simp] theorem sampleOperands_start (i : Instr) (s : State) : (sampleOperands i s).start = s.start := rfl
@[simp] theorem sampleOperands_len (i : Instr) (s : State) : (sampleOperands i s).len = s.len := rfl
@[simp] theorem sampleOperands_din (i : Instr) (s : State) : (sampleOperands i s).din = s.din := rfl

end Sys2Proof.Machine
end

