-- ==== Sys2Proof/Laws/Bus.lean ====
section
/-! SUPPORT. The bus: which accesses are allowed, and what a step is when the next event is a transaction. -/

namespace Sys2Proof.Machine

open Sys2Proof.Safety

/-- The check of the machine is the table of 20 R48. -/
theorem accessAllowed_iff {off n : Nat} (h : off < 0x80000) : accessAllowed off n = true ↔ AccessInTable off n := by
  unfold accessAllowed AccessInTable
  by_cases h1 : 0x20000 ≤ off ∧ off < 0x50000
  · simp [h1.1, h1.2, show ¬ off < 131072 by omega, show ¬ 327680 ≤ off by omega, or_assoc]
  · rw [if_neg (by simpa using h1)]
    simp only [Bool.and_eq_true, beq_iff_eq]
    omega

theorem access_lt {off n : Nat} (h : AccessInTable off n) : off < 0x80000 := by
  unfold AccessInTable at h
  omega

theorem inBlock_iff (s : State) (addr : Nat) :
    inBlock s addr = true ↔ s.cfg.base ≤ addr ∧ addr < s.cfg.base + 0x80000 := by
  unfold inBlock
  rw [Bool.and_eq_true, decide_eq_true_eq, decide_eq_true_eq]
  rfl

theorem inBlock_offset {s : State} {off : Nat} (h : off < 0x80000) : inBlock s (s.cfg.base + off) = true := by
  rw [inBlock_iff]
  omega

/-- What a read returns does not depend on what is still to come. -/
theorem readValue_events (s : State) (es : List Event) (off n : Nat) :
    readValue { s with events := es } off n = readValue s off n := rfl

theorem hostRead_allowed {s : State} {off n : Nat} (h : AccessInTable off n) :
    hostRead (s.cfg.base + off) n s = .done (answerRead (readValue s off n) s) := by
  simp [hostRead, inBlock_offset (access_lt h), (accessAllowed_iff (access_lt h)).2 h]

theorem hostWrite_busy {s : State} {off n : Nat} {v : Word} (h : AccessInTable off n) (hb : s.busy = true) :
    hostWrite (s.cfg.base + off) n v s = .done (raiseCmdError .busyWrite s) := by
  simp [hostWrite, inBlock_offset (access_lt h), (accessAllowed_iff (access_lt h)).2 h, hb]

theorem hostWrite_idle {s : State} {off n : Nat} {v : Word} (h : AccessInTable off n) (hb : s.busy = false) :
    hostWrite (s.cfg.base + off) n v s = writeIdle off n v s := by
  simp [hostWrite, inBlock_offset (access_lt h), (accessAllowed_iff (access_lt h)).2 h, hb]

/-- An allowed read, as the next event, returns `readValue`. -/
theorem reads_readValue (s : State) {off n : Nat} (h : AccessInTable off n) : Reads s off n (readValue s off n) := by
  intro es
  have := hostRead_allowed (s := { s with events := es }) h
  simp only [step, nextAction, this]
  rfl

/-- An allowed write while idle that runs no command takes the block where `writeIdle` says. -/
theorem writes_of_writeIdle {s t : State} {off n : Nat} {v : Word} (h : AccessInTable off n) (hb : s.busy = false)
    (ht : ∀ es, writeIdle off n v { s with events := es } = .done { t with events := es }) : Writes s off n v t := by
  intro es
  have := hostWrite_idle (s := { s with events := es }) (v := v) h hb
  simp only [step, nextAction, this, ht]

/-- The words at 4-byte-aligned offsets outside the two buffers may be accessed. -/
theorem accessInTable_word {off : Nat} (h : off < 0x20000) (h4 : off % 4 = 0) : AccessInTable off 4 := by
  unfold AccessInTable
  omega

/-- What stands below 0x400: the registers at their offsets, and reserved offsets between and above them. -/
theorem regAt_cases (off : Nat) :
    (∃ r, regAt off = .reg r ∧ regOffset r = off) ∨ (regAt off = .reserved ∧ ∀ r, regOffset r ≠ off) := by
  unfold regAt
  cases h : allRegs.find? fun r => regOffset r == off with
  | some r => exact .inl ⟨r, rfl, by simpa using List.find?_some h⟩
  | none =>
    refine .inr ⟨rfl, fun r => ?_⟩
    have := List.find?_eq_none.1 h r (by cases r <;> decide)
    simpa using this

/-- Every region an offset can be in, with the offsets of each (10 R17). -/
theorem regionOf_cases (off : Nat) :
    (∃ r, regionOf off = .reg r ∧ regOffset r = off) ∨
    (∃ i < 1024 / 4, regionOf off = .table (BitVec.ofNat 8 i) ∧ 0x400 + 4 * i ≤ off ∧ off < 0x400 + 4 * i + 4) ∨
    (∃ i, regionOf off = .data i ∧ off = 0x20000 + i ∧ i < 0x20000) ∨
    (∃ i, regionOf off = .payloadOut i ∧ off = 0x40000 + i ∧ i < 0x10000) ∨
    (regionOf off = .reserved ∧ (∀ r, regOffset r ≠ off) ∧
      (off < 0x400 ∨ (0x800 ≤ off ∧ off < 0x20000) ∨ 0x50000 ≤ off)) := by
  unfold regionOf
  by_cases h1 : off < 0x400
  · rw [if_pos h1]
    rcases regAt_cases off with h | h
    · exact .inl h
    · exact .inr (.inr (.inr (.inr ⟨h.1, h.2, .inl h1⟩)))
  rw [if_neg h1]
  have hne : ∀ r, regOffset r ≠ off := by
    intro r hr
    have : regOffset r < 0x400 := by cases r <;> decide
    omega
  by_cases h2 : off < 0x800
  · rw [if_pos h2]
    exact .inr (.inl ⟨(off - 0x400) / 4, by omega, rfl, by omega, by omega⟩)
  rw [if_neg h2]
  by_cases h3 : off < 0x20000
  · rw [if_pos h3]
    exact .inr (.inr (.inr (.inr ⟨rfl, hne, by omega⟩)))
  rw [if_neg h3]
  by_cases h4 : off < 0x40000
  · rw [if_pos h4]
    exact .inr (.inr (.inl ⟨_, rfl, by omega, by omega⟩))
  rw [if_neg h4]
  by_cases h5 : off < 0x50000
  · rw [if_pos h5]
    exact .inr (.inr (.inr (.inl ⟨_, rfl, by omega, by omega⟩)))
  rw [if_neg h5]
  exact .inr (.inr (.inr (.inr ⟨rfl, hne, by omega⟩)))

/-- The region of a DATA offset. -/
theorem regionOf_data {i : Nat} (h : i < 0x20000) : regionOf (0x20000 + i) = .data i := by
  simp [regionOf, show ¬ 131072 + i < 1024 by omega, show ¬ 131072 + i < 2048 by omega,
    show 131072 + i < 262144 by omega]

/-- The region of a PAYLOAD_OUT offset. -/
theorem regionOf_payloadOut {i : Nat} (h : i < 0x10000) : regionOf (0x40000 + i) = .payloadOut i := by
  simp [regionOf, show ¬ 262144 + i < 1024 by omega, show ¬ 262144 + i < 2048 by omega,
    show ¬ 262144 + i < 131072 by omega, show 262144 + i < 327680 by omega]

/-- The region of a TABLE offset. -/
theorem regionOf_table {i : Nat} (h : i < 256) : regionOf (0x400 + 4 * i) = .table (BitVec.ofNat 8 i) := by
  simp [regionOf, show 1024 + 4 * i < 2048 by omega]

/-- Byte `k` of a word built from bytes, as far as the word reaches. -/
theorem wordOfBytes_byte (bs : List Byte) {k : Nat} (hk : k < bs.length) (h4 : k < 4) :
    (wordOfBytes bs).extractLsb' (8 * k) 8 = bs[k] := by
  induction bs generalizing k with
  | nil => simp at hk
  | cons b bs ih =>
    cases k with
    | zero =>
      apply BitVec.eq_of_getLsbD_eq
      intro j hj
      simp [wordOfBytes, hj, show j < 32 by omega]
    | succ k =>
      have e := ih (k := k) (by simpa using hk) (by omega)
      rw [List.getElem_cons_succ, ← e]
      apply BitVec.eq_of_getLsbD_eq
      intro j hj
      simp only [wordOfBytes, BitVec.getLsbD_extractLsb', BitVec.getLsbD_or, BitVec.getLsbD_setWidth,
        BitVec.getLsbD_shiftLeft]
      rw [BitVec.getLsbD_of_ge b _ (by omega)]
      simp [show 8 * (k + 1) + j < 32 by omega, show ¬ 8 * (k + 1) + j < 8 by omega,
        show 8 * (k + 1) + j - 8 = 8 * k + j by omega]

/-- A word of `n` bytes has zeros above them. -/
theorem wordOfBytes_lt (bs : List Byte) (h : bs.length ≤ 4) : (wordOfBytes bs).toNat < 2 ^ (8 * bs.length) := by
  induction bs with
  | nil => simp [wordOfBytes]
  | cons b bs ih =>
    have hb := b.isLt
    have hw := ih (by simp at h; omega)
    have e : 2 ^ (8 * (bs.length + 1)) = 2 ^ (8 * bs.length) * 256 := by rw [Nat.mul_add, Nat.pow_add]
    simp only [wordOfBytes, List.length_cons, BitVec.toNat_or, BitVec.toNat_setWidth, BitVec.toNat_shiftLeft]
    refine Nat.or_lt_two_pow ?_ ?_
    · refine Nat.lt_of_le_of_lt (Nat.mod_le _ _) (Nat.lt_of_lt_of_le hb ?_)
      exact Nat.pow_le_pow_right (by omega) (by omega)
    · refine Nat.lt_of_le_of_lt (Nat.mod_le _ _) ?_
      rw [Nat.shiftLeft_eq, e]
      omega

/-- Everything a read can be. -/
theorem hostRead_cases (addr n : Nat) (s : State) :
    hostRead addr n s = .stop .addressOutsideBlock ∨ hostRead addr n s = .refuse .accessNotAllowed ∨
      ∃ off, addr = s.cfg.base + off ∧ AccessInTable off n ∧
        hostRead addr n s = .done (answerRead (readValue s off n) s) := by
  by_cases hi : inBlock s addr = true
  · obtain ⟨off, rfl⟩ : ∃ off, addr = s.cfg.base + off := by
      have := (inBlock_iff s addr).1 hi
      exact ⟨addr - s.cfg.base, by omega⟩
    by_cases ha : accessAllowed off n = true
    · have hlt : off < 0x80000 := by
        have := (inBlock_iff _ _).1 hi
        omega
      have h := (accessAllowed_iff hlt).1 ha
      exact .inr (.inr ⟨off, rfl, h, hostRead_allowed h⟩)
    · exact .inr (.inl (by simp [hostRead, hi, ha]))
  · exact .inl (by simp [hostRead, hi])

/-- Everything a write can be: stopped, refused, ignored with BUSY_WRITE while BUSY = 1, and while BUSY = 0 a command
word, a register write, a DATA write, or ignored. -/
theorem hostWrite_cases (addr n : Nat) (v : Word) (s : State) :
    hostWrite addr n v s = .stop .addressOutsideBlock ∨ hostWrite addr n v s = .refuse .accessNotAllowed ∨
      ∃ off, addr = s.cfg.base + off ∧ AccessInTable off n ∧
        ((s.busy = true ∧ hostWrite addr n v s = .done (raiseCmdError .busyWrite s)) ∨
        (s.busy = false ∧
          ((off = 0x00C ∧ n = 4 ∧ hostWrite addr n v s = issueWord v s) ∨
          (∃ r, r ≠ .cmd ∧ off = regOffset r ∧ n = 4 ∧ hostWrite addr n v s = .done (writeReg r v s)) ∨
          (∃ i, off = 0x20000 + i ∧ i < 0x20000 ∧ hostWrite addr n v s = .done (writeData i n v s)) ∨
          ((∀ r, regOffset r ≠ off) ∧ hostWrite addr n v s = .done s)))) := by
  by_cases hi : inBlock s addr = true
  · obtain ⟨off, rfl⟩ : ∃ off, addr = s.cfg.base + off := by
      have := (inBlock_iff s addr).1 hi
      exact ⟨addr - s.cfg.base, by omega⟩
    by_cases ha : accessAllowed off n = true
    · have hlt : off < 0x80000 := by
        have := (inBlock_iff _ _).1 hi
        omega
      have h := (accessAllowed_iff hlt).1 ha
      refine .inr (.inr ⟨off, rfl, h, ?_⟩)
      cases hb : s.busy with
      | true => exact .inl ⟨rfl, hostWrite_busy h hb⟩
      | false =>
        refine .inr ⟨rfl, ?_⟩
        rw [hostWrite_idle h hb]
        unfold writeIdle
        rcases regionOf_cases off with ⟨r, hr, ho⟩ | ⟨i, hi, hr, ho⟩ | ⟨i, hr, ho⟩ | ⟨i, hr, ho⟩ | ⟨hr, ho, _⟩ <;>
          rw [hr]
        · have h4 : n = 4 := by
            have : regOffset r < 0x20000 := by cases r <;> decide
            unfold AccessInTable at h
            omega
          by_cases hc : r = .cmd
          · subst hc
            exact .inl ⟨ho.symm, h4, rfl⟩
          · refine .inr (.inl ⟨r, hc, ho.symm, h4, ?_⟩)
            cases r <;> first | rfl | exact absurd rfl hc
        · refine .inr (.inr (.inr ⟨fun r hr' => ?_, rfl⟩))
          have : regOffset r < 0x400 := by cases r <;> decide
          omega
        · exact .inr (.inr (.inl ⟨i, ho.1, ho.2, rfl⟩))
        · refine .inr (.inr (.inr ⟨fun r hr' => ?_, rfl⟩))
          have : regOffset r < 0x400 := by cases r <;> decide
          omega
        · exact .inr (.inr (.inr ⟨ho, rfl⟩))
    · exact .inr (.inl (by simp [hostWrite, hi, ha]))
  · exact .inl (by simp [hostWrite, hi])

/-- Everything the engine's turn can be. -/
theorem engineTurn_cases (s : State) :
    (∃ c, s.busy = true ∧ s.pending = some (.cmd c) ∧ engineTurn s = .run c.op s) ∨
      (s.busy = true ∧ s.pending = some .init ∧ engineTurn s = .done (finishInit s)) ∨
      (engineTurn s = .done s ∧ (s.busy = false ∨ s.pending = none)) := by
  unfold engineTurn
  cases hb : s.busy with
  | false => simp
  | true =>
    match hp : s.pending with
    | none => simp
    | some .init => simp
    | some (.cmd c) => simp

end Sys2Proof.Machine
end

