-- ==== Sys2Proof/Laws/Command.lean ====
section
/-! SUPPORT. Everything the shared life of a command can do. -/

namespace Sys2Proof.Machine

/-- A command issued while idle either raises WINDOW_RANGE or is accepted. -/
theorem startCommand_cases (i : Instr) (s : State) :
    (usesWindow i = true ∧ windowInRange s = false ∧ startCommand i s = raiseCmdError .windowRange s) ∨
      ((usesWindow i = true → windowInRange s = true) ∧ startCommand i s = acceptCommand i s) := by
  unfold startCommand
  cases h : usesWindow i <;> cases h' : windowInRange s <;> simp

/-- The three things `runCommand` can do: issue the command, complete it, or raise BUSY_WRITE. It never stops. -/
theorem runCommand_cases (i : Instr) (effect : Command → State → State) (s : State) :
    (s.busy = false ∧ runCommand i effect s = .next (startCommand i s)) ∨
      (∃ c, s.busy = true ∧ s.pending = some (.cmd c) ∧ c.op = i ∧
        runCommand i effect s = .next (finishCommand (effect c s))) ∨
      (s.busy = true ∧ (∀ c, s.pending = some (.cmd c) → c.op ≠ i) ∧
        runCommand i effect s = .next (raiseCmdError .busyWrite s)) := by
  unfold runCommand
  cases hb : s.busy with
  | false => simp
  | true =>
    match hp : s.pending with
    | none => simp
    | some .init => simp
    | some (.cmd c) => by_cases hc : c.op = i <;> simp [hc]

/-- While a command is pending, the meaning with its name completes it. -/
theorem runCommand_pending {i : Instr} {s : State} {c : Command} (hb : s.busy = true)
    (hp : s.pending = some (.cmd c)) (hc : c.op = i) (effect : Command → State → State) :
    runCommand i effect s = .next (finishCommand (effect c s)) := by
  simp [runCommand, hb, hp, hc]

end Sys2Proof.Machine
end

