-- ==== Sys2Proof/Laws/HostScanner.lean ====
section
/-! SUPPORT. What each transaction of the scanner on the block does: a load answers, a store changes one register, and a
`wait` ends with the pending work done. -/

namespace Sys2Proof.Machine

open Sys2Proof.Safety

/-- The state after some reads: only the host's record and the count of free values differ. -/
def afterReads (s : State) (r : List Word) (n : Nat) : State := { s with responses := r, draws := n }

@[simp] theorem afterReads_afterReads (s : State) (r r' : List Word) (n n' : Nat) :
    afterReads (afterReads s r n) r' n' = afterReads s r' n' := rfl

@[simp] theorem afterReads_self (s : State) : afterReads s s.responses s.draws = s := rfl

theorem afterReads_inv {s : State} {r : List Word} {n : Nat} : Inv (afterReads s r n) ↔ Inv s := Iff.rfl

@[simp] theorem onNext_next {α β : Type} (x : α) (k : α → Host.Outcome β Fault Refusal) :
    onNext (.next x) k = k x := rfl

@[simp] theorem lastRead_answerRead (v : Word) (s : State) : lastRead (answerRead v s) = v := rfl

/-- An allowed read answers its value. -/
theorem transact_read (s : State) {off n : Nat} (h : AccessInTable off n) :
    transact (.read (s.cfg.base + off) n) s = .next (answerRead (readValue s off n) s) := reads_readValue s h s.events

theorem loadReg_next (s : State) {off : Nat} (h : AccessInTable off 4) :
    loadReg off s = .next (answerRead (readValue s off 4) s) := transact_read s h

/-- A register write while BUSY = 0. -/
theorem storeReg_next {s t : State} {off v : Nat} (h : Writes s off 4 (BitVec.ofNat 32 v) t) :
    storeReg off v s = .next { t with events := s.events } := h s.events

/-- The bytes of `w` are loaded when each one reads as itself, whatever was read before. -/
theorem loadBytes_of_reads (w : List Byte) : ∀ (s : State) (off : Nat),
    (∀ j < w.length, AccessInTable (off + j) 1 ∧
      ∀ r n, readValue (afterReads s r n) (off + j) 1 = (w.getD j 0).setWidth 32) →
    ∃ r n, loadBytes w.length off s = .next (w, afterReads s r n) := by
  induction w with
  | nil => exact fun s _ _ => ⟨s.responses, s.draws, rfl⟩
  | cons b w ih =>
    intro s off h
    have h0 : AccessInTable off 1 ∧ ∀ r n, readValue (afterReads s r n) off 1 = b.setWidth 32 := h 0 (by simp)
    have hv : readValue s off 1 = b.setWidth 32 := h0.2 s.responses s.draws
    obtain ⟨r, n, e⟩ := ih (answerRead (readValue s off 1) s) (off + 1) fun j hj => by
      have hj' := h (j + 1) (by simpa using hj)
      rw [show off + 1 + j = off + (j + 1) by omega]
      exact ⟨hj'.1, fun r n => hj'.2 r n⟩
    refine ⟨r, n, ?_⟩
    rw [List.length_cons, loadBytes, transact_read s h0.1, onNext_next, e, onNext_next, lastRead_answerRead, hv]
    simp only [BitVec.setWidth_setWidth_of_le b (show 8 ≤ 32 by decide), BitVec.setWidth_eq]
    rfl

/-- Written bytes of DATA are loaded as they are. -/
theorem loadBytes_data {s : State} {a : Nat} {w : List Byte} (hw : DataHolds s a w) (hl : a + w.length ≤ s.cfg.bufBytes)
    (hb : s.cfg.bufBytes ≤ 0x20000) : ∃ r n, loadBytes w.length (0x20000 + a) s = .next (w, afterReads s r n) := by
  refine loadBytes_of_reads w s _ fun j hj => ⟨?_, fun r n => ?_⟩
  · unfold AccessInTable
    omega
  · rw [readValue, Nat.add_assoc, regionOf_data (show a + j < 0x20000 by omega)]
    have hr : Memory.read s.data (a + j) = some w[j] := by rw [hw j hj, List.getElem?_eq_getElem hj]
    have hd : dataByte (afterReads s r n) n (a + j) = w[j] := by
      rw [dataByte, if_pos (show a + j < (afterReads s r n).cfg.bufBytes from by change a + j < s.cfg.bufBytes; omega)]
      exact engRead_of_written hr n
    simp only [List.range_one, List.map_cons, List.map_nil, Nat.add_zero]
    rw [show (afterReads s r n).draws = n from rfl, hd]
    simp [wordOfBytes, List.getD_eq_getElem?_getD, List.getElem?_eq_getElem hj]

/-- Written bytes of PAYLOAD_OUT are loaded as they are while BUSY = 0. -/
theorem loadBytes_payload {s : State} {w : List Byte} (hb : s.busy = false) (hl : w.length ≤ maxPayloadSize)
    (hw : ∀ j < w.length, Memory.read s.payloadOut j = w[j]?) :
    ∃ r n, loadBytes w.length 0x40000 s = .next (w, afterReads s r n) := by
  unfold maxPayloadSize at hl
  refine loadBytes_of_reads w s _ fun j hj => ⟨?_, fun r n => ?_⟩
  · unfold AccessInTable
    omega
  · rw [readValue, regionOf_payloadOut (show j < 0x10000 by omega)]
    have hr : Memory.read s.payloadOut j = some w[j] := by rw [hw j hj, List.getElem?_eq_getElem hj]
    have hd : payloadByte (afterReads s r n) n j = w[j] := by
      rw [payloadByte, if_pos (show j < maxPayloadSize from by unfold maxPayloadSize; omega),
        show (afterReads s r n).busy = s.busy from rfl, hb,
        show Memory.read (afterReads s r n).payloadOut j = Memory.read s.payloadOut j from rfl, hr]
      rfl
    simp only [List.range_one, List.map_cons, List.map_nil, Nat.add_zero]
    rw [show (afterReads s r n).draws = n from rfl, hd]
    simp [wordOfBytes, List.getD_eq_getElem?_getD, List.getElem?_eq_getElem hj]

/-- Bit 0 of STATUS is BUSY. -/
theorem status_busy (s : State) : (readValue s 0x008 4).getLsbD 0 = s.busy := by
  change (statusWord s).getLsbD 0 = s.busy
  unfold statusWord
  rw [BitVec.getLsbD_append]
  cases s.busy <;> rfl

/-- The engine's turn as a transaction. -/
theorem transact_engine (s : State) : transact .engine s =
    match engineTurn s with
    | .done t => .next t
    | .run i t => exec i t
    | .stop r => .fault r
    | .refuse r => .refused r := rfl

/-- While BUSY = 0, `wait` only reads. -/
theorem waitIdle_of_idle {s : State} (h : s.busy = false) (polls : Nat) :
    ∃ r n, waitIdle polls s = .next (afterReads s r n) := by
  refine ⟨readValue s 0x008 4 :: s.responses, s.draws + 4, ?_⟩
  cases polls with
  | zero =>
    rw [waitIdle, transact_engine, engineTurn, h]
    exact loadReg_next s (by decide)
  | succ polls =>
    rw [waitIdle, loadReg_next s (by decide), onNext_next, lastRead_answerRead, status_busy, h]
    rfl

/-- While BUSY = 1, `wait` reads STATUS, lets the engine have its turn, and reads the STATUS it left. -/
theorem waitIdle_of_busy (polls : Nat) : ∀ {s : State}, s.busy = true → ∃ r n,
    waitIdle polls s = onNext (transact .engine (afterReads s r n)) fun t => loadReg 0x008 t := by
  induction polls with
  | zero => exact fun {s} _ => ⟨s.responses, s.draws, rfl⟩
  | succ polls ih =>
    intro s h
    obtain ⟨r, n, e⟩ := ih (s := answerRead (readValue s 0x008 4) s) h
    refine ⟨r, n, ?_⟩
    rw [waitIdle, loadReg_next s (by decide), onNext_next, lastRead_answerRead, status_busy, h, if_pos rfl, e]
    rfl

end Sys2Proof.Machine
end

