-- ==== Sys2Proof/Laws/Parse.lean ====
section
/-! SUPPORT. The exits of `parse_frame`, one lemma for each step that can return (41_frame_parser.md R98 to R104). -/

namespace Sys2Proof.Machine

@[simp] theorem slice_length (w : List Byte) (a b : Nat) : (slice w a b).length = min (b - a) (w.length - a) := by
  simp [slice]

theorem frameLength_eq (ps : Half) : frameLength ps = 10 + ps.toNat := by
  simp [frameLength, headerSize, crcSize]; omega

theorem parseFrame_short {w : List Byte} (h : w.length < 8) : parseFrame w = ParseOut.blank .insufficientData := by
  simp [parseFrame, headerSize, h]

theorem parseFrame_preamble {w : List Byte} (h : 8 ≤ w.length) (hp : w.getD 0 0 ≠ 0xFA ∨ w.getD 1 0 ≠ 0xCE) :
    parseFrame w = ParseOut.blank .invalidPreamble := by
  simp only [parseFrame, headerSize, if_neg (show ¬ w.length < 8 by omega), if_pos hp]

theorem parseFrame_header {w : List Byte} (h : 8 ≤ w.length) (h0 : w.getD 0 0 = 0xFA) (h1 : w.getD 1 0 = 0xCE) :
    parseFrame w = parseHeader w := by
  simp only [parseFrame, headerSize, if_neg (show ¬ w.length < 8 by omega), h0, h1]
  simp

/-- Everything `parsePayload` can answer: the payload CRC fails, or SUCCESS. -/
theorem parsePayload_cases (w : List Byte) (o : ParseOut) :
    (parsePayload w o = { o with
        res := .invalidPayloadCrc, pcalc := crc16 (slice w 8 (8 + o.ps.toNat)), prx := le16 w (8 + o.ps.toNat) } ∧
      crc16 (slice w 8 (8 + o.ps.toNat)) ≠ le16 w (8 + o.ps.toNat)) ∨
    (parsePayload w o = { o with
        res := .success, pcalc := crc16 (slice w 8 (8 + o.ps.toNat)), prx := le16 w (8 + o.ps.toNat),
        consumed := frameLength o.ps, payload := slice w 8 (8 + o.ps.toNat) } ∧
      crc16 (slice w 8 (8 + o.ps.toNat)) = le16 w (8 + o.ps.toNat)) := by
  unfold parsePayload headerSize
  by_cases h : crc16 (slice w 8 (8 + o.ps.toNat)) = le16 w (8 + o.ps.toNat)
  · right; simp [h]
  · left; simp [h]

/-- The header record that steps 3 and 4 fill in. -/
def headerOut (w : List Byte) (r : ParseResult) : ParseOut :=
  { ParseOut.blank r with fc := le16 w 2, ps := le16 w 4, hcalc := crc16 (slice w 0 6), hrx := le16 w 6 }

/-- Everything `parseHeader` can answer. -/
theorem parseHeader_cases (w : List Byte) :
    (parseHeader w = headerOut w .invalidHeaderCrc ∧ crc16 (slice w 0 6) ≠ le16 w 6) ∨
    (parseHeader w = headerOut w .insufficientData ∧ crc16 (slice w 0 6) = le16 w 6 ∧
      w.length < frameLength (le16 w 4)) ∨
    (parseHeader w = parsePayload w (headerOut w .noResult) ∧ crc16 (slice w 0 6) = le16 w 6 ∧
      frameLength (le16 w 4) ≤ w.length) := by
  unfold parseHeader headerOut
  by_cases h : crc16 (slice w 0 6) = le16 w 6
  · by_cases h' : w.length < frameLength (le16 w 4)
    · right; left; simp [h, h', ParseOut.blank]
    · right; right; simp [h, h']; omega
  · left; simp [h, ParseOut.blank]

end Sys2Proof.Machine
end

