-- ==== Sys2Proof/Laws/PerInstr.lean ====
section
/-! SUPPORT. Per-instruction facts about instructions as syntax. Family EncodedWord: the word of every command is a
legal word with the match value of its row (30_encoding.md R66, R76). -/

namespace Sys2Proof.Laws.EncodedWord

def Statement (i : Instr) : Prop :=
  i.wellFormed = true ∧ CommandWord.legal (encode i) = true ∧ (encode i).extractLsb' 0 4 = opCode i

theorem nop : Statement .nop := by unfold Statement; decide

theorem crcInit : Statement .crcInit := by unfold Statement; decide

theorem crcByte : Statement .crcByte := by unfold Statement; decide

theorem crcSpan : Statement .crcSpan := by unfold Statement; decide

theorem parse : Statement .parse := by unfold Statement; decide

end Sys2Proof.Laws.EncodedWord
end

