-- ==== Sys2Proof/Laws/Step.lean ====
section
/-! SUPPORT. What a step can be, once: every way a step goes on, with the event that led to it. -/

namespace Sys2Proof.Machine

open Sys2Proof.Safety

/-- The state a step acts on: the one before it, with the event taken. -/
def taken (s : State) : State := { s with events := s.events.tail }

/-- Every way a step can go on. The state acted on is `taken s`: the event is gone from it, and nothing else. -/
theorem step_cases {s t : State} (h : step s = .next t) :
    (EngineMoves s ∧
      ((∃ c, Completing s c ∧ exec c.op (taken s) = .next t) ∨
        (s.busy = true ∧ s.pending = some .init ∧ t = finishInit (taken s)) ∨
        ((s.busy = false ∨ s.pending = none) ∧ t = taken s))) ∨
    (∃ off n, (∃ es, s.events = .read (s.cfg.base + off) n :: es) ∧
      t = answerRead (readValue s off n) (taken s)) ∨
    (∃ off n v, (∃ es, s.events = .write (s.cfg.base + off) n v :: es) ∧ AccessInTable off n ∧
      ((s.busy = true ∧ t = raiseCmdError .busyWrite (taken s)) ∨
      (s.busy = false ∧
        ((off = 0x00C ∧ n = 4 ∧ ∃ e, decode v = .error e ∧ t = raiseCmdError .illegalCmd (taken s)) ∨
        (off = 0x00C ∧ n = 4 ∧ ∃ i, decode v = .ok i ∧ exec i (taken s) = .next t) ∨
        (∃ r, r ≠ .cmd ∧ off = regOffset r ∧ n = 4 ∧ t = writeReg r v (taken s)) ∨
        (∃ i, off = 0x20000 + i ∧ i < 0x20000 ∧ t = writeData i n v (taken s)) ∨
        ((∀ r, regOffset r ≠ off) ∧ t = taken s))))) ∨
    (ResetNext s ∧ t = hardReset (taken s)) := by
  have engine : ∀ (he : EngineMoves s),
      (match engineTurn (taken s) with
        | .done s' => Host.Outcome.next s'
        | .run i s' => exec i s'
        | .stop r => .fault r
        | .refuse r => .refused r) = .next t →
      (∃ c, Completing s c ∧ exec c.op (taken s) = .next t) ∨
        (s.busy = true ∧ s.pending = some .init ∧ t = finishInit (taken s)) ∨
        ((s.busy = false ∨ s.pending = none) ∧ t = taken s) := by
    intro _ h
    rcases engineTurn_cases (taken s) with ⟨c, hb, hp, e⟩ | ⟨hb, hp, e⟩ | ⟨e, hb⟩ <;> rw [e] at h
    · exact .inl ⟨c, ⟨hb, hp⟩, h⟩
    · exact .inr (.inl ⟨hb, hp, (Host.Outcome.next.inj h).symm⟩)
    · exact .inr (.inr ⟨hb, (Host.Outcome.next.inj h).symm⟩)
  unfold step nextAction at h
  match hev : s.events with
  | [] =>
    have ht : taken s = s := by
      unfold taken
      rw [hev, List.tail_nil, ← hev]
    rw [hev] at h
    exact .inl ⟨.inl hev, engine (.inl hev) (by rw [ht]; exact h)⟩
  | .engine :: es =>
    have ht : taken s = { s with events := es } := by unfold taken; rw [hev, List.tail_cons]
    rw [hev] at h
    exact .inl ⟨.inr ⟨es, hev⟩, engine (.inr ⟨es, hev⟩) (by rw [ht]; exact h)⟩
  | .rst :: es =>
    have ht : taken s = { s with events := es } := by unfold taken; rw [hev, List.tail_cons]
    rw [hev] at h
    exact .inr (.inr (.inr ⟨⟨es, hev⟩, by rw [ht]; exact (Host.Outcome.next.inj h).symm⟩))
  | .read addr n :: es =>
    have ht : taken s = { s with events := es } := by unfold taken; rw [hev, List.tail_cons]
    rw [hev] at h
    simp only [← ht] at h
    rcases hostRead_cases addr n (taken s) with e | e | ⟨off, rfl, _, e⟩ <;> rw [e] at h
    · cases h
    · cases h
    · exact .inr (.inl ⟨off, n, ⟨es, rfl⟩, (Host.Outcome.next.inj h).symm⟩)
  | .write addr n v :: es =>
    have ht : taken s = { s with events := es } := by unfold taken; rw [hev, List.tail_cons]
    rw [hev] at h
    simp only [← ht] at h
    rcases hostWrite_cases addr n v (taken s) with e | e | ⟨off, rfl, ha, hw⟩
    · rw [e] at h
      cases h
    · rw [e] at h
      cases h
    refine .inr (.inr (.inl ⟨off, n, v, ⟨es, rfl⟩, ha, ?_⟩))
    rcases hw with ⟨hb, e⟩ | ⟨hb, ⟨ho, hn, e⟩ | ⟨r, hr, ho, hn, e⟩ | ⟨i, ho, hi, e⟩ | ⟨ho, e⟩⟩ <;> rw [e] at h
    · exact .inl ⟨hb, (Host.Outcome.next.inj h).symm⟩
    · refine .inr ⟨hb, ?_⟩
      unfold issueWord at h
      cases hd : decode v with
      | ok i =>
        rw [hd] at h
        exact .inr (.inl ⟨ho, hn, i, rfl, h⟩)
      | error er =>
        rw [hd] at h
        exact .inl ⟨ho, hn, er, rfl, (Host.Outcome.next.inj h).symm⟩
    · exact .inr ⟨hb, .inr (.inr (.inl ⟨r, hr, ho, hn, (Host.Outcome.next.inj h).symm⟩))⟩
    · exact .inr ⟨hb, .inr (.inr (.inr (.inl ⟨i, ho, hi, (Host.Outcome.next.inj h).symm⟩)))⟩
    · exact .inr ⟨hb, .inr (.inr (.inr (.inr ⟨ho, (Host.Outcome.next.inj h).symm⟩)))⟩

end Sys2Proof.Machine
end

