-- ==== Sys2Proof/Tests/Slice0.lean ====
section
/-! SUPPORT. Tests, with expected values from spec/ (the source of each is in its comment), and one theorem
`witness_<obligation>` for each obligation that has hypotheses: a concrete input that meets them all. -/

namespace Sys2Proof.Tests

-- One theorem at a time: in parallel, this many small theorems ask for more thread stacks than the memory limit gives.
set_option Elab.async false

open Sys2Proof Sys2Proof.Machine Sys2Proof.Safety

/-! ## Helpers -/

/-- A field of the next state, if there is one. -/
def after {α : Type} (f : State → α) (o : Host.Outcome State Fault Refusal) : Option α :=
  match o with
  | .next t => some (f t)
  | .fault _ => none
  | .refused _ => none

/-- A state with command `i` in progress on the window [start, start + len), and `bytes` written from `start` up. -/
def inProgress (i : Instr) (start len : Word) (din : Byte) (bytes : List Byte) : State :=
  { State.reset with
    busy := true
    pending := some (.cmd { op := i, start := start, len := len, din := din })
    start := start, len := len, din := din, data := Memory.cells start.toNat bytes }

/-- The command in progress there. -/
def running (i : Instr) (start len : Word) (din : Byte) : Command := { op := i, start := start, len := len, din := din }

/-- Frame A of 95: `create_frame([01 02 03], 0x1234)`. -/
def frameA : List Byte := [0xFA, 0xCE, 0x34, 0x12, 0x03, 0x00, 0xF6, 0x7B, 0x01, 0x02, 0x03, 0xAD, 0xAD]

/-- Frame C of 95: `create_frame([], 0)`. -/
def frameC : List Byte := [0xFA, 0xCE, 0x00, 0x00, 0x00, 0x00, 0xBE, 0xE5, 0xFF, 0xFF]

/-- A PARSE of `w` at DATA[100 ..) in progress. -/
def parsing (w : List Byte) : State := inProgress .parse 100 (BitVec.ofNat 32 w.length) 0 w

/-- The same, on the first `n` bytes. -/
def parseCmd (n : Word) : Command := running .parse 100 n 0

/-- The parse registers, as 30 R74 and 10 R32 lay them out: RESULT, FRAME_COUNTER, PAYLOAD_SIZE, HDR_CRC, PAY_CRC,
CONSUMED. -/
def parseRegs (s : State) : List Word :=
  [0x020, 0x024, 0x028, 0x02C, 0x030, 0x034].map fun off => readValue s off 4

/-- The block in table initialisation (70 R143). -/
def initialising : State := State.resetWith { Config.chosen with tableInitLatency := 3 }

/-! ## Decoding: words written out from 30 R66, R76 (OP in [3:0], RSVD in [31:4]) -/

theorem test_decode_nop : decode 0b0000000000000000000000000000_0000 = .ok .nop := by decide

theorem test_decode_crcInit : decode 0b0000000000000000000000000000_0001 = .ok .crcInit := by decide

theorem test_decode_crcByte : decode 0b0000000000000000000000000000_0010 = .ok .crcByte := by decide

theorem test_decode_crcSpan : decode 0b0000000000000000000000000000_0011 = .ok .crcSpan := by decide

theorem test_decode_parse : decode 0b0000000000000000000000000000_0100 = .ok .parse := by decide

/-- 60 section 5 and program P5: OP 5, OP 15, RSVD = 1, and the top bit of RSVD. -/
theorem test_decode_illegal :
    [decode 0x5, decode 0xF, decode 0x14, decode 0x80000001].map Except.toOption = [none, none, none, none] := by decide

/-! ## WellFormed: each clause refuses an ill-formed word -/

theorem test_legal_refuses_rsvd : CommandWord.rsvdZero 0x10 = false ∧ CommandWord.legal 0x10 = false := by decide

theorem test_legal_refuses_op : CommandWord.opAssigned 0x5 = false ∧ CommandWord.legal 0x5 = false := by decide

theorem test_legal_admits : CommandWord.legal 0x4 = true ∧ CommandWord.legal 0x0 = true := by decide

/-! ## The host's way in: each row of the opcode table decodes, and is the first command after reset -/

theorem test_table_words : [0, 1, 2, 3, 4, 5].map (decodeTableWord 32) =
    [some .nop, some .crcInit, some .crcByte, some .crcSpan, some .parse, none] := by decide

theorem test_first_command : [0, 1, 2, 3, 4].map (fun w => after (·.pending) (step (State.reset.withFetchWord 32 w))) =
    [Instr.nop, .crcInit, .crcByte, .crcSpan, .parse].map fun i => some (some (.cmd (running i 0 0 0))) := by decide

/-! ## The lookup table, against the listing of 40 R91 -/

def tableRows0 : List Half :=
  [0x0000, 0x1021, 0x2042, 0x3063, 0x4084, 0x50A5, 0x60C6, 0x70E7] ++
  [0x8108, 0x9129, 0xA14A, 0xB16B, 0xC18C, 0xD1AD, 0xE1CE, 0xF1EF] ++
  [0x1231, 0x0210, 0x3273, 0x2252, 0x52B5, 0x4294, 0x72F7, 0x62D6] ++
  [0x9339, 0x8318, 0xB37B, 0xA35A, 0xD3BD, 0xC39C, 0xF3FF, 0xE3DE] ++
  [0x2462, 0x3443, 0x0420, 0x1401, 0x64E6, 0x74C7, 0x44A4, 0x5485] ++
  [0xA56A, 0xB54B, 0x8528, 0x9509, 0xE5EE, 0xF5CF, 0xC5AC, 0xD58D] ++
  [0x3653, 0x2672, 0x1611, 0x0630, 0x76D7, 0x66F6, 0x5695, 0x46B4] ++
  [0xB75B, 0xA77A, 0x9719, 0x8738, 0xF7DF, 0xE7FE, 0xD79D, 0xC7BC]

def tableRows1 : List Half :=
  [0x48C4, 0x58E5, 0x6886, 0x78A7, 0x0840, 0x1861, 0x2802, 0x3823] ++
  [0xC9CC, 0xD9ED, 0xE98E, 0xF9AF, 0x8948, 0x9969, 0xA90A, 0xB92B] ++
  [0x5AF5, 0x4AD4, 0x7AB7, 0x6A96, 0x1A71, 0x0A50, 0x3A33, 0x2A12] ++
  [0xDBFD, 0xCBDC, 0xFBBF, 0xEB9E, 0x9B79, 0x8B58, 0xBB3B, 0xAB1A] ++
  [0x6CA6, 0x7C87, 0x4CE4, 0x5CC5, 0x2C22, 0x3C03, 0x0C60, 0x1C41] ++
  [0xEDAE, 0xFD8F, 0xCDEC, 0xDDCD, 0xAD2A, 0xBD0B, 0x8D68, 0x9D49] ++
  [0x7E97, 0x6EB6, 0x5ED5, 0x4EF4, 0x3E13, 0x2E32, 0x1E51, 0x0E70] ++
  [0xFF9F, 0xEFBE, 0xDFDD, 0xCFFC, 0xBF1B, 0xAF3A, 0x9F59, 0x8F78]

def tableRows2 : List Half :=
  [0x9188, 0x81A9, 0xB1CA, 0xA1EB, 0xD10C, 0xC12D, 0xF14E, 0xE16F] ++
  [0x1080, 0x00A1, 0x30C2, 0x20E3, 0x5004, 0x4025, 0x7046, 0x6067] ++
  [0x83B9, 0x9398, 0xA3FB, 0xB3DA, 0xC33D, 0xD31C, 0xE37F, 0xF35E] ++
  [0x02B1, 0x1290, 0x22F3, 0x32D2, 0x4235, 0x5214, 0x6277, 0x7256] ++
  [0xB5EA, 0xA5CB, 0x95A8, 0x8589, 0xF56E, 0xE54F, 0xD52C, 0xC50D] ++
  [0x34E2, 0x24C3, 0x14A0, 0x0481, 0x7466, 0x6447, 0x5424, 0x4405] ++
  [0xA7DB, 0xB7FA, 0x8799, 0x97B8, 0xE75F, 0xF77E, 0xC71D, 0xD73C] ++
  [0x26D3, 0x36F2, 0x0691, 0x16B0, 0x6657, 0x7676, 0x4615, 0x5634]

def tableRows3 : List Half :=
  [0xD94C, 0xC96D, 0xF90E, 0xE92F, 0x99C8, 0x89E9, 0xB98A, 0xA9AB] ++
  [0x5844, 0x4865, 0x7806, 0x6827, 0x18C0, 0x08E1, 0x3882, 0x28A3] ++
  [0xCB7D, 0xDB5C, 0xEB3F, 0xFB1E, 0x8BF9, 0x9BD8, 0xABBB, 0xBB9A] ++
  [0x4A75, 0x5A54, 0x6A37, 0x7A16, 0x0AF1, 0x1AD0, 0x2AB3, 0x3A92] ++
  [0xFD2E, 0xED0F, 0xDD6C, 0xCD4D, 0xBDAA, 0xAD8B, 0x9DE8, 0x8DC9] ++
  [0x7C26, 0x6C07, 0x5C64, 0x4C45, 0x3CA2, 0x2C83, 0x1CE0, 0x0CC1] ++
  [0xEF1F, 0xFF3E, 0xCF5D, 0xDF7C, 0xAF9B, 0xBFBA, 0x8FD9, 0x9FF8] ++
  [0x6E17, 0x7E36, 0x4E55, 0x5E74, 0x2E93, 0x3EB2, 0x0ED1, 0x1EF0]

theorem test_table_0 : (List.range 64).map (fun k => tableEntry (BitVec.ofNat 8 k)) = tableRows0 := by decide +kernel

theorem test_table_1 : (List.range 64).map (fun k => tableEntry (BitVec.ofNat 8 (64 + k))) = tableRows1 := by decide +kernel

theorem test_table_2 : (List.range 64).map (fun k => tableEntry (BitVec.ofNat 8 (128 + k))) = tableRows2 := by decide +kernel

theorem test_table_3 : (List.range 64).map (fun k => tableEntry (BitVec.ofNat 8 (192 + k))) = tableRows3 := by decide +kernel

/-- CFF's reference vector (40 R84). -/
theorem test_crc16_reference : crc16 [0x31, 0x32, 0x33, 0x34, 0x35, 0x36, 0x37, 0x38, 0x39] = 0x29B1 := by decide +kernel

/-! ## One step of each command -/

/-- 40 R87, example: NOP leaves STATUS = 2. -/
theorem test_nop_status : after statusWord (exec .nop (inProgress .nop 0 0 0 [])) = some 0x2 := by decide

/-- V-CRC-14. -/
theorem test_crcInit_value :
    after (·.crc) (exec .crcInit { inProgress .crcInit 0 0 0 [] with crc := 0x29B1 }) = some 0xFFFF := by decide

/-- V-CRC-15. -/
theorem test_crcByte_step : after (·.crc) (exec .crcByte (inProgress .crcByte 0 0 0x31 [])) = some 0xC782 := by decide +kernel

/-- V-CRC-13, step 9: the carried accumulator takes part. -/
theorem test_crcByte_carry :
    after (·.crc) (exec .crcByte { inProgress .crcByte 0 0 0x39 [] with crc := 0xA12B }) = some 0x29B1 := by decide +kernel

/-- V-CRC-6, with START not 0 and another accumulator (V-CRC-16: it takes no part). -/
theorem test_crcSpan_value : after (·.crc)
    (exec .crcSpan { inProgress .crcSpan 7 9 0 [0x31, 0x32, 0x33, 0x34, 0x35, 0x36, 0x37, 0x38, 0x39] with
      crc := 0x1234 }) = some 0x29B1 := by decide +kernel

/-- V-CRC-18: START = BUF_BYTES with LEN = 0 is accepted. -/
theorem test_crcSpan_edge :
    after statusWord (exec .crcSpan { State.reset with start := 65545 }) = some 0x1 := by decide +kernel

/-- V-PAR-1. -/
theorem test_parse_success : after parseRegs (exec .parse (parsing frameA)) =
    some [1, 0x1234, 3, 0x7BF67BF6, 0xADADADAD, 13] := by decide +kernel

/-- V-PAR-12: one payload byte changed. -/
theorem test_parse_payload_crc : after parseRegs (exec .parse (parsing (frameA.set 8 0x81))) =
    some [5, 0x1234, 3, 0x7BF67BF6, 0x96F7ADAD, 0] := by decide +kernel

/-! ## The other conventions -/

/-- 20 R50: the bytes of a word write, low byte first. -/
theorem test_little_endian : after (fun t => (List.range 4).map (Memory.read t.data))
    (step { State.reset with events := [.write 0x20000 4 0x1234CEFA] }) =
    some [some 0xFA, some 0xCE, some 0x34, some 0x12] := by decide +kernel

/-- 10 R25: one write of STATUS clears both bits and the code. -/
theorem test_status_clear : after statusWord
    (step { State.reset with done := true, err := true, errcode := .busyWrite, events := [.write 0x008 4 0x6] }) =
    some 0 := by decide +kernel

/-- 60 R127: BUSY_WRITE, STATUS = 0x35 with BUSY still 1. -/
theorem test_busy_write : after statusWord
    (step { inProgress .nop 0 0 0 [] with events := [.write 0x010 4 1] }) = some 0x35 := by decide +kernel

/-- 60 R133: the interrupt is the level IE & (DONE | ERR). -/
theorem test_irq : irq { State.reset with ctrlIe := true, err := true } = true ∧ irq State.reset = false := by decide

/-- V-ENC-2 and V-ENC-1. -/
theorem test_createFrame : (createFrame [1, 2, 3] 0x1234).toOption = some frameA ∧
    (createFrame [] 0).toOption = some frameC := by decide +kernel

/-- Program P4's stream (V-SCN-2): a false preamble, then a frame. -/
theorem test_findFrames : findFrames ([0xFA, 0xCE, 1, 2, 3, 4, 5, 6, 7] ++ frameC) = ([(0, [])], 19) := by decide +kernel

/-- `wait` (30 R81) goes on when STATUS bit 0 reads 0. -/
theorem test_host_wait : (match runLine { prog := expand .wait, pc := 0, vars := [] } State.reset with
    | .next p => some p.1.pc
    | .fault _ => none
    | .refused _ => none) = some 1 := by decide +kernel

/-- 30 R81: the operands are host expressions, and `load.data` counts up from its offset. -/
theorem test_load_data : (expand (.loadData (.var 0) [.var 1, .const 0x32])).map (fun l => match l with
    | .sb off v => some (evalExpr [(0, 7), (1, 0x31)] off, evalExpr [(0, 7), (1, 0x31)] v)
    | _ => none) = [some (0x20007, 0x31), some (0x20008, 0x32)] := by decide +kernel

/-- 30 R80: `sb` is "DATA only", at the last offset of DATA and the first after it. -/
theorem test_sb_data_only :
    (after (·.err) (storeData 1 0x3FFFF 0 State.reset)) = some false ∧
    storeData 1 0x40000 0 State.reset = .refused .narrowStoreOutsideData := ⟨by decide +kernel, rfl⟩

/-- The buffers of the reset state are in canonical form. -/
theorem test_reset_memory_wf : Memory.Wf State.reset.data ∧ Memory.Wf State.reset.payloadOut := by decide

/-! ## Witnesses -/

theorem witness_CommandWordsDecode :
    (5 ≤ (0x5 : Word).toNat ∧ (0x5 : Word).toNat ≤ 15) ∧ 5 ≤ (0xF : Word).toNat ∧ (0xF : Word).toNat ≤ 15 := by decide

theorem witness_CmdWriteRunsDecodedCommand : State.reset.busy = false ∧ decode 0x4 = .ok .parse := by decide

theorem witness_EngineTurnRunsPendingCommand : Completing (parsing frameA) (parseCmd 13) := by decide +kernel

/-- Each clause at a boundary: RSVD = 1, OP = 5, a window one byte too long, a window that just fits, and a window that
does not fit under a command that takes none. -/
theorem witness_CommandAcceptance :
    State.reset.busy = false ∧ (0x10 : Word).extractLsb' 4 28 ≠ 0 ∧ 4 < ((0x5 : Word).extractLsb' 0 4).toNat ∧
    decode 0x3 = .ok .crcSpan ∧ decode 0x4 = .ok .parse ∧ decode 0x0 = .ok .nop ∧
    State.reset.cfg.bufBytes < (65545 : Word).toNat + (1 : Word).toNat ∧
    ¬ State.reset.cfg.bufBytes < (65545 : Word).toNat + (0 : Word).toNat := by decide +kernel

theorem witness_BusyWriteIsIgnored : (inProgress .nop 0 0 0 []).busy = true ∧ AccessInTable 0x000 4 ∧
    AccessInTable 0x4FFFF 1 ∧ AccessInTable 0x7FFFC 4 := by decide +kernel

theorem witness_IdleEngineDoesNothing : State.reset.busy = false := by decide

theorem witness_AccessesOutsideTheTableAreRefused :
    (∀ p ∈ [(0x00C, 2), (0x20002, 4), (0x4FFFF, 2), (0x50000, 1), (0x20000, 8)], ¬ AccessInTable p.1 p.2) ∧
    ∀ p ∈ [(0x1FFFC, 4), (0x20001, 1), (0x4FFFE, 2), (0x7FFFC, 4)], AccessInTable p.1 p.2 := by decide +kernel

theorem witness_AddressOutsideBlockFaults :
    State.reset.cfg.base + 0x80000 ≤ 0x80000 ∧
    0x7FFFF < (State.resetWith { Config.chosen with base := 0x80000 }).cfg.base := by decide +kernel

theorem witness_InitStepEndsTableInitialisation : initialising.busy = true ∧ initialising.pending = some .init := by
  decide

theorem witness_NopCompletes : Completing (inProgress .nop 0 0 0 []) (running .nop 0 0 0) := by decide

theorem witness_CrcInitCompletes : Completing (inProgress .crcInit 0 0 0 []) (running .crcInit 0 0 0) := by decide

theorem witness_CrcByteCompletes : Completing (inProgress .crcByte 0 0 0x31 []) (running .crcByte 0 0 0x31) := by decide

theorem witness_CrcSpanCompletes :
    Completing (inProgress .crcSpan 7 2 0 [0x41, 0x42]) (running .crcSpan 7 2 0) ∧
    ([0x41, 0x42] : List Byte).length = (running .crcSpan 7 2 0).len.toNat ∧
    DataHolds (inProgress .crcSpan 7 2 0 [0x41, 0x42]) 7 [0x41, 0x42] := by decide +kernel

theorem witness_ParseCompletes : Completing (parsing frameA) (parseCmd 13) ∧ (parseCmd 13).op = .parse := by
  decide +kernel

theorem witness_ParseOfShortWindow :
    Completing (parsing (frameA.take 7)) (parseCmd 7) ∧ (parseCmd 7).len.toNat < 8 := by decide +kernel

theorem witness_ParseOfWrongPreamble :
    Completing (parsing (frameC.set 1 0xCF)) (parseCmd 10) ∧ 8 ≤ (parseCmd 10).len.toNat ∧
    ¬ ((window (parsing (frameC.set 1 0xCF)) (parseCmd 10)).getD 0 0 = 0xFA ∧
      (window (parsing (frameC.set 1 0xCF)) (parseCmd 10)).getD 1 0 = 0xCE) := by decide +kernel

/-- The first eight bytes of the window, with each premise on them. -/
theorem witness_ParseOfWrongHeaderCrc :
    Completing (parsing ((frameA.take 8).set 6 0xF7)) (parseCmd 8) ∧ 8 ≤ (parseCmd 8).len.toNat ∧
    (frameA.take 8).set 6 0xF7 = (window (parsing ((frameA.take 8).set 6 0xF7)) (parseCmd 8)).take 8 ∧
    ((frameA.take 8).set 6 0xF7).getD 0 0 = 0xFA ∧ ((frameA.take 8).set 6 0xF7).getD 1 0 = 0xCE ∧
    crc16 (((frameA.take 8).set 6 0xF7).take 6) ≠
      ((frameA.take 8).set 6 0xF7).getD 7 0 ++ ((frameA.take 8).set 6 0xF7).getD 6 0 := by decide +kernel

theorem witness_ParseOfIncompleteFrame :
    Completing (parsing (frameA.take 12)) (parseCmd 12) ∧ 8 ≤ (parseCmd 12).len.toNat ∧
    frameA.take 8 = (window (parsing (frameA.take 12)) (parseCmd 12)).take 8 ∧
    (frameA.take 8).getD 0 0 = 0xFA ∧ (frameA.take 8).getD 1 0 = 0xCE ∧
    crc16 ((frameA.take 8).take 6) = (frameA.take 8).getD 7 0 ++ (frameA.take 8).getD 6 0 ∧
    (parseCmd 12).len.toNat < 8 + ((frameA.take 8).getD 5 0 ++ (frameA.take 8).getD 4 0).toNat + 2 := by
  decide +kernel

/-- V-PAR-12b, and a byte after the frame. -/
theorem witness_ParseOfWrongPayloadCrc :
    Completing (parsing (frameA.take 11 ++ [0xAC, 0xAD] ++ [0xBB])) (parseCmd 14) ∧
    window (parsing (frameA.take 11 ++ [0xAC, 0xAD] ++ [0xBB])) (parseCmd 14) =
      frameA.take 8 ++ [1, 2, 3] ++ [0xAC, 0xAD] ++ [0xBB] ∧
    (frameA.take 8).length = 8 ∧ (frameA.take 8).getD 0 0 = 0xFA ∧ (frameA.take 8).getD 1 0 = 0xCE ∧
    crc16 ((frameA.take 8).take 6) = (frameA.take 8).getD 7 0 ++ (frameA.take 8).getD 6 0 ∧
    ([1, 2, 3] : List Byte).length = ((frameA.take 8).getD 5 0 ++ (frameA.take 8).getD 4 0).toNat ∧
    crc16 [1, 2, 3] ≠ (0xAD : Byte) ++ (0xAC : Byte) := by decide +kernel

theorem witness_ParseOfValidFrame :
    Completing (parsing frameA) (parseCmd 13) ∧
    window (parsing frameA) (parseCmd 13) = frameA.take 8 ++ [1, 2, 3] ++ [0xAD, 0xAD] ++ [] ∧
    (frameA.take 8).length = 8 ∧ (frameA.take 8).getD 0 0 = 0xFA ∧ (frameA.take 8).getD 1 0 = 0xCE ∧
    crc16 ((frameA.take 8).take 6) = (frameA.take 8).getD 7 0 ++ (frameA.take 8).getD 6 0 ∧
    ([1, 2, 3] : List Byte).length = ((frameA.take 8).getD 5 0 ++ (frameA.take 8).getD 4 0).toNat ∧
    crc16 [1, 2, 3] = (0xAD : Byte) ++ (0xAD : Byte) := by decide +kernel

/-- The other DATA keeps the two bytes that a wrong preamble reads, and has no more. -/
theorem witness_ParseReadsOnlyItsFrame :
    Completing (parsing (frameC.set 1 0xCF)) (parseCmd 10) ∧ (parseCmd 10).op = .parse ∧
    (∀ j < bytesRead (window (parsing (frameC.set 1 0xCF)) (parseCmd 10)),
      Memory.read [(100, 0xFA), (101, 0xCF)] ((parseCmd 10).start.toNat + j) =
        Memory.read (parsing (frameC.set 1 0xCF)).data ((parseCmd 10).start.toNat + j)) ∧
    (after (·.result) (exec .parse (parsing (frameC.set 1 0xCF)))).isSome = true := by decide +kernel

theorem witness_CrcAndParseDoNotDisturbEachOther :
    Completing (inProgress .crcSpan 7 2 0 [0x41, 0x42]) (running .crcSpan 7 2 0) ∧
    (after (·.crc) (exec .crcSpan (inProgress .crcSpan 7 2 0 [0x41, 0x42]))).isSome = true ∧
    (after (·.crc) (exec .parse (parsing frameA))).isSome = true := by decide +kernel

theorem witness_ParseLeavesInputAndAccumulator :
    Completing (parsing frameA) (parseCmd 13) ∧ (parseCmd 13).op = .parse ∧
    after (·.result) (exec .parse (parsing frameA)) = some .success ∧
    after (·.result) (exec .parse (parsing (frameA.take 7))) = some .insufficientData := by decide +kernel

theorem witness_AccumulatorHoldsCrcOfBytesFed :
    Completing (inProgress .crcInit 0 0 0 []) (running .crcInit 0 0 0) ∧
    Completing (inProgress .crcSpan 7 2 0 [0x41, 0x42]) (running .crcSpan 7 2 0) ∧
    DataHolds (inProgress .crcSpan 7 2 0 [0x41, 0x42]) 7 [0x41, 0x42] ∧
    Completing (inProgress .crcByte 0 0 0x41 []) (running .crcByte 0 0 0x41) ∧
    (inProgress .crcByte 0 0 0x41 []).crc = crc16 [] := by decide +kernel

theorem witness_IdAndBufSizeAreConstants : State.reset.busy = false := by decide

theorem witness_StatusWriteOneToClear :
    ({ State.reset with done := true, err := true, errcode := .windowRange } : State).busy = false := by decide

theorem witness_RegisterReads : ({ State.reset with result := .success } : State).busy = false := by decide

/-- Both ways to be busy, the first and last byte of PAYLOAD_OUT, its reserved byte, and an offset on each side of the
free reads. -/
theorem witness_ResultReadsAreFreeWhilePending :
    Completing (parsing frameA) (parseCmd 13) ∧ initialising.busy = true ∧ initialising.pending = some .init ∧
    (∀ p ∈ [(0, 4), (65534, 2), (65535, 1)], AccessInTable (0x40000 + p.1) p.2 ∧ p.1 < 0x10000) ∧
    AccessInTable 0x018 4 ∧ 0x018 ∉ [0x008, 0x01C, 0x020, 0x024, 0x028, 0x02C, 0x030, 0x034] ∧
    AccessInTable 0x3FFFF 1 ∧ ¬ (0x40000 ≤ 0x3FFFF ∧ 0x3FFFF < 0x50000) := by decide +kernel

theorem witness_TableReads : State.reset.pending ≠ some .init ∧ initialising.pending = some .init := by decide

/-- Each reserved range at its ends, for BUF_BYTES = 65545. -/
theorem witness_ReservedOffsetsReadZero : State.reset.busy = false ∧
    ∀ p ∈ [(0x03C, 4), (0x3FC, 4), (0x800, 4), (0x1FFFC, 4), (0x20000 + 65545, 1), (0x3FFFF, 1), (0x4FFFF, 1),
      (0x50000, 4), (0x7FFFC, 4)], AccessInTable p.1 p.2 ∧ ReservedOffset State.reset p.1 := by decide +kernel

theorem witness_ReadOnlyWritesAreIgnored : State.reset.busy = false ∧ AccessInTable 0x40000 4 ∧
    AccessInTable 0x4FFFF 1 := by decide +kernel

theorem witness_ReadsHaveNoSideEffect :
    (after (·.responses) (step { State.reset with events := .read 0x000 4 :: [] })) = some [0x0CFF0100] := by
  decide +kernel

/-- The first word of DATA, its last byte below BUF_BYTES, and a word that reaches over BUF_BYTES. -/
theorem witness_DataWriteStoresLittleEndian : State.reset.busy = false ∧ AccessInTable (0x20000 + 0) 4 ∧
    AccessInTable (0x20000 + 65544) 1 ∧ AccessInTable (0x20000 + 65544) 4 ∧ 65544 < 0x20000 := by decide +kernel

theorem witness_DataReadIsLittleEndian : AccessInTable (0x20000 + 65544) 2 ∧ 65544 < 0x20000 ∧
    AccessInTable (0x20000 + 0x1FFFF) 1 ∧ 0x1FFFF < 0x20000 := by decide +kernel

theorem witness_PayloadOutReadIsLittleEndian :
    AccessInTable (0x40000 + 65532) 4 ∧ 65532 < 0x10000 ∧ State.reset.busy = false := by decide +kernel

theorem witness_WordWriteEqualsFourByteWrites : State.reset.busy = false ∧ Memory.Wf State.reset.data ∧ 65540 % 4 = 0 ∧
    65540 + 4 ≤ State.reset.cfg.bufBytes ∧ 65540 + 4 ≤ 0x20000 := by decide +kernel

/-- A PARSE about to complete is in the invariant, and steps. -/
theorem witness_StepKeepsInvariant :
    Inv (parsing frameA) ∧ (after (·.result) (step (parsing frameA))) = some .success := by decide +kernel

theorem witness_ResetMeetsInvariant :
    ({ Config.chosen with tableInitLatency := 3 } : Config).Legal ∧
    ({ base := 0x80000, bufBytes := 131072, tableInitLatency := 0 } : Config).Legal := by decide +kernel

theorem witness_ParametersNeverChange : (after (·.cfg) (step (parsing frameA))).isSome = true := by decide +kernel

theorem witness_OnlyCrcCommandsWriteCrc :
    after (·.crc) (step (inProgress .crcByte 0 0 0x31 [])) = some 0xC782 := by decide +kernel

/-- A step that is neither a reset nor a PARSE's completion. -/
theorem witness_OnlyParseWritesResults :
    (after (·.crc) (step (inProgress .crcInit 0 0 0 []))).isSome = true ∧ ¬ ResetNext (inProgress .crcInit 0 0 0 []) ∧
    ¬ (EngineMoves (inProgress .crcInit 0 0 0 []) ∧
      ∃ c, Completing (inProgress .crcInit 0 0 0 []) c ∧ c.op = .parse) := by
  refine ⟨by decide, ?_, ?_⟩
  · rintro ⟨_, h⟩
    cases h
  · rintro ⟨_, _, ⟨_, h⟩, h'⟩
    cases h
    cases h'

theorem witness_OnlyHostWritesOperandsAndData :
    (after (·.crc) (step (parsing frameA))).isSome = true ∧ ¬ ResetNext (parsing frameA) ∧
    ¬ (HostWriteNext (parsing frameA) ∧ (parsing frameA).busy = false) := by
  refine ⟨by decide +kernel, ?_, ?_⟩
  · rintro ⟨_, h⟩
    cases h
  · rintro ⟨_, h⟩
    cases h

/-- BUSY rises by acceptance; BUSY falls and DONE rises by completion; DONE falls by a STATUS write. -/
theorem witness_BusyAndDoneTransitions :
    after (·.busy) (step { State.reset with events := [.write 0x00C 4 0x1] }) = some true ∧
    (after (fun t => (t.busy, t.done)) (step (inProgress .nop 0 0 0 []))) = some (false, true) ∧
    after (·.done) (step { State.reset with done := true, events := [.write 0x008 4 0x2] }) = some false := by
  decide +kernel

/-- Each error, and the clearing of it. -/
theorem witness_ErrorTransitions :
    after (·.errcode) (step { State.reset with events := [.write 0x00C 4 0x5] }) = some .illegalCmd ∧
    after (·.errcode) (step { State.reset with start := 65545, len := 1, events := [.write 0x00C 4 0x4] }) =
      some .windowRange ∧
    after (·.errcode) (step { inProgress .nop 0 0 0 [] with events := [.write 0x00C 4 0x0] }) = some .busyWrite ∧
    after (·.errcode) (step { State.reset with err := true, errcode := .illegalCmd, events := [.write 0x008 4 0x4] }) =
      some .noError := by decide +kernel

theorem witness_InterruptSources :
    irq { inProgress .nop 0 0 0 [] with ctrlIe := true } = false ∧
    after irq (step { inProgress .nop 0 0 0 [] with ctrlIe := true }) = some true ∧
    after irq (step { State.reset with done := true, events := [.write 0x004 4 0x1] }) = some true := by decide +kernel

theorem witness_PendingWorkCompletes :
    Inv { parsing frameA with events := [.read 0x008 4, .write 0x010 4 5, .engine] } ∧
    ({ parsing frameA with events := [.read 0x008 4, .write 0x010 4 5, .engine] } : State).busy = true ∧
    ∀ e ∈ [Event.read 0x008 4, .write 0x010 4 5, .engine], AllowedTransaction (parsing frameA).cfg e := by
  refine ⟨by decide +kernel, by decide, ?_⟩
  intro e he
  simp only [List.mem_cons, List.not_mem_nil, or_false] at he
  rcases he with rfl | rfl | rfl
  · exact ⟨0x008, by decide +kernel, by decide⟩
  · exact ⟨0x010, by decide +kernel, by decide⟩
  · exact True.intro

/-- The payload sizes on both sides of the limit. -/
theorem witness_EncodedFrameLength :
    (List.replicate 65535 (0xA5 : Byte)).length ≤ 65535 ∧ 65535 < (List.replicate 65536 (0xA5 : Byte)).length := by
  simp only [List.length_replicate]
  decide

/-- The encoder answers with a frame. -/
theorem witness_ParseOfEncodedFrame : createFrame [1, 2, 3] 0x1234 = .ok frameA := by rfl

theorem witness_ParsedFrameWasEncoded : (parseFrame (frameA ++ [0xAA])).res = .success := by decide +kernel

theorem witness_BlockParsesEncodedFrame :
    Completing (parsing (frameA ++ [0xAA])) (parseCmd 14) ∧ createFrame [1, 2, 3] 0x1234 = .ok frameA ∧
    DataHolds (parsing (frameA ++ [0xAA])) (parseCmd 14).start.toNat frameA ∧
    frameA.length ≤ (parseCmd 14).len.toNat :=
  ⟨by decide +kernel, witness_ParseOfEncodedFrame, by decide +kernel, by decide +kernel⟩

/-- FA at the end, and CE before FA: no preamble. -/
theorem witness_ScanWithoutPreamble :
    ∀ k, ¬ (([0xCE, 0xFA] : List Byte)[k]? = some (0xFA : Byte) ∧ ([0xCE, 0xFA] : List Byte)[k + 1]? = some (0xCE : Byte))
  | 0 => by decide
  | 1 => by decide
  | _ + 2 => fun h => by cases h.1

theorem witness_ScannerFindsEveryFrame :
    [((0x1234 : Half), ([1, 2, 3] : List Byte)), (0, [])].map (fun p => createFrame p.2 p.1) =
      [frameA, frameC].map .ok := by rfl

theorem witness_ScannerReportsOnlyEncodedFrames : ((0x1234 : Half), ([1, 2, 3] : List Byte)) ∈
    (findFrames ([0xFA, 0xCE, 0, 0, 0, 0, 0, 0] ++ frameA)).1 := by decide +kernel

/-- A stream in DATA, while a command that is not the scanner's is still pending. -/
theorem witness_BlockScanAgreesWithReference :
    Inv (inProgress .nop 0 0 0 frameA) ∧ frameA.length ≤ (inProgress .nop 0 0 0 frameA).cfg.bufBytes ∧
    DataHolds (inProgress .nop 0 0 0 frameA) 0 frameA := by decide +kernel

end Sys2Proof.Tests
end

section
/-! Proofs of the statements of 10_state.md. The rules for one register access (R17) come first: what a read returns
and where a write takes the idle block, for every register at once. -/

namespace Sys2Proof.Machine

open Sys2Proof.Safety

@[simp] theorem regionOf_regOffset (r : Reg) : regionOf (regOffset r) = .reg r := by
  cases r <;> rfl

theorem accessInTable_regOffset (r : Reg) : AccessInTable (regOffset r) 4 := by
  apply accessInTable_word <;> cases r <;> decide

theorem reads_reg (s : State) (r : Reg) : Reads s (regOffset r) 4 (regWord s r) := by
  have h := reads_readValue s (accessInTable_regOffset r)
  rwa [readValue, regionOf_regOffset] at h

/-- CMD is the one register whose write can start a command (20 R54). -/
theorem writeIdle_regOffset {r : Reg} (hr : r ≠ .cmd) (n : Nat) (v : Word) (s : State) :
    writeIdle (regOffset r) n v s = .done (writeReg r v s) := by
  rw [writeIdle, regionOf_regOffset]
  cases r
  case cmd => exact absurd rfl hr
  all_goals rfl

/-- A register write does not look at what is still to come. -/
theorem writeReg_withEvents (r : Reg) (v : Word) (s : State) (es : List Event) :
    writeReg r v { s with events := es } = { writeReg r v s with events := es } := by
  cases r <;> rfl

theorem writes_reg {s : State} (hb : s.busy = false) {r : Reg} (hr : r ≠ .cmd) (v : Word) :
    Writes s (regOffset r) 4 v (writeReg r v s) :=
  writes_of_writeIdle (accessInTable_regOffset r) hb fun es => by
    rw [writeIdle_regOffset hr, writeReg_withEvents]

theorem reads_table (s : State) (i : Byte) : Reads s (0x400 + 4 * i.toNat) 4 (tableWord s i) := by
  have hi : i.toNat < 256 := i.isLt
  have h := reads_readValue s (accessInTable_word (off := 0x400 + 4 * i.toNat) (by omega) (by omega))
  rwa [readValue, regionOf_table hi, BitVec.ofNat_toNat, BitVec.setWidth_eq] at h

/-! ## The STATUS word (10 R25) -/

/-- The W1C rules as two switches: bit 1 for DONE, bit 2 for ERR and ERRCODE together. -/
theorem writeStatus_eq (v : Word) (s : State) :
    writeStatus v s =
      { s with
        done := if v.getLsbD 1 then false else s.done
        err := if v.getLsbD 2 then false else s.err
        errcode := if v.getLsbD 2 then .noError else s.errcode } := by
  unfold writeStatus
  cases v.getLsbD 1 <;> cases v.getLsbD 2 <;> simp

/-- Every bit of STATUS: the three flags, the reserved bit 3, then ERRCODE with zeros above it. -/
theorem statusWord_getLsbD (s : State) (j : Nat) : (statusWord s).getLsbD j =
    match j with
    | 0 => s.busy
    | 1 => s.done
    | 2 => s.err
    | 3 => false
    | k + 4 => (errCodeBits s.errcode).getLsbD k := by
  unfold statusWord
  iterate 5 rw [BitVec.getLsbD_append]
  match j with
  | 0 | 1 | 2 => simp
  | 3 => rfl
  | k + 4 =>
    by_cases hk : k < 4
    · simp [hk]
    · simp [hk, BitVec.getLsbD_of_ge _ k (Nat.le_of_not_lt hk)]

theorem statusWord_high (s : State) : (statusWord s).extractLsb' 8 24 = 0 := by
  apply BitVec.eq_of_getLsbD_eq
  intro j hj
  rw [BitVec.getLsbD_extractLsb', show 8 + j = (4 + j) + 4 by omega, statusWord_getLsbD]
  simp

/-! ## Reset (10 R42) -/

theorem step_rst (s : State) (es : List Event) :
    step { s with events := .rst :: es } = .next (hardReset { s with events := es }) := rfl

theorem irq_hardReset (s : State) : irq (hardReset s) = false := rfl

/-- A ROM table is there from reset on (10 R35). -/
theorem reads_table_hardReset {s : State} (h : s.cfg.tableInitLatency = 0) (i : Byte) :
    Reads (hardReset s) (0x400 + 4 * i.toNat) 4 ((tableEntry i).setWidth 32) := by
  have hrom : tableWord (hardReset s) i = (tableEntry i).setWidth 32 := by
    simp [tableWord, initPending, h]
  exact hrom ▸ reads_table (hardReset s) i

/-! ## The statements -/

/-- Settles O27: both registers are read-only with a constant `regWord`. -/
theorem idAndBufSizeAreConstants : Obligations.IdAndBufSizeAreConstants := by
  intro s v
  refine ⟨reads_reg s .id, reads_reg s .bufSize, fun hb => ⟨?_, ?_⟩⟩
  · exact writes_reg hb (r := .id) (by decide) v
  · exact writes_reg hb (r := .bufSize) (by decide) v

/-- Settles O28: the write is `writeStatus`, the read is `statusWord`. -/
theorem statusWriteOneToClear : Obligations.StatusWriteOneToClear := by
  intro s
  refine ⟨fun hb v => ?_, statusWord s, reads_reg s .status, statusWord_getLsbD s 3, statusWord_high s⟩
  rw [← writeStatus_eq]
  exact writes_reg hb (r := .status) (by decide) v

/-- Settles O11: the step is `hardReset`, whose fields are read off one by one. -/
theorem resetValues : Obligations.ResetValues := by
  intro s es
  refine ⟨_, step_rst s es, ?_⟩
  have hid := reads_reg (hardReset { s with events := es }) .id
  have hbuf := reads_reg (hardReset { s with events := es }) .bufSize
  have htable := reads_table_hardReset (s := { s with events := es })
  simpa [irq_hardReset] using ⟨hid, hbuf, htable⟩

end Sys2Proof.Machine
end

section
/-! Proofs of the statements of 20_memory.md. First what an allowed write can be while BUSY = 0 and which writes are
ignored, then what a reserved offset is to the address map. -/

namespace Sys2Proof.Machine

open Sys2Proof.Safety

/-! ## Accesses (20 R48, R49) -/

/-- No command stops, at its issue or at its completion. -/
theorem runCommand_next (i : Instr) (effect : Command → State → State) (s : State) :
    ∃ t, runCommand i effect s = .next t := by
  rcases runCommand_cases i effect s with ⟨_, e⟩ | ⟨_, _, _, _, e⟩ | ⟨_, _, e⟩ <;> exact ⟨_, e⟩

theorem exec_next (i : Instr) (s : State) : ∃ t, exec i s = .next t := by
  cases i with
  | nop | crcInit | crcByte | crcSpan | parse =>
    unfold exec
    exact runCommand_next ..

theorem issueWord_cases (v : Word) (s : State) :
    (∃ t, issueWord v s = .done t) ∨ ∃ i, issueWord v s = .run i s := by
  unfold issueWord
  cases decode v with
  | ok i => exact .inr ⟨i, rfl⟩
  | error e => exact .inl ⟨_, rfl⟩

/-- While BUSY = 0 a write goes on, or it is the CMD write that issues a command. -/
theorem writeIdle_cases (off n : Nat) (v : Word) (s : State) :
    (∃ t, writeIdle off n v s = .done t) ∨ ∃ i, writeIdle off n v s = .run i s := by
  rcases regionOf_cases off with ⟨r, _, rfl⟩ | ⟨_, _, hr, _⟩ | ⟨_, hr, _⟩ | ⟨_, hr, _⟩ | ⟨hr, _⟩
  · by_cases hc : r = .cmd
    · subst hc
      rw [writeIdle, regionOf_regOffset]
      exact issueWord_cases v s
    · exact .inl ⟨_, writeIdle_regOffset hc n v s⟩
  all_goals exact .inl ⟨_, by rw [writeIdle, hr]⟩

/-- An allowed write goes on, whether the block is busy or idle, or it issues a command. -/
theorem hostWrite_allowed_cases {s : State} {off n : Nat} (h : AccessInTable off n) (v : Word) :
    (∃ t, hostWrite (s.cfg.base + off) n v s = .done t) ∨ ∃ i, hostWrite (s.cfg.base + off) n v s = .run i s := by
  cases hb : s.busy with
  | true => exact .inl ⟨_, hostWrite_busy h hb⟩
  | false =>
    rw [hostWrite_idle h hb]
    exact writeIdle_cases off n v s

theorem step_write_next (s : State) (es : List Event) {off n : Nat} (h : AccessInTable off n) (v : Word) :
    ∃ t, step { s with events := .write (s.cfg.base + off) n v :: es } = .next t := by
  rcases hostWrite_allowed_cases (s := { s with events := es }) h v with ⟨t, e⟩ | ⟨i, e⟩ <;>
    simp only [step, nextAction, e]
  · exact ⟨t, rfl⟩
  · exact exec_next i _

theorem hostRead_notAllowed {s : State} {off n : Nat} (hlt : off < 0x80000) (h : ¬ AccessInTable off n) :
    hostRead (s.cfg.base + off) n s = .refuse .accessNotAllowed := by
  simp [hostRead, inBlock_offset hlt, mt (accessAllowed_iff hlt).1 h]

theorem hostWrite_notAllowed {s : State} {off n : Nat} (v : Word) (hlt : off < 0x80000) (h : ¬ AccessInTable off n) :
    hostWrite (s.cfg.base + off) n v s = .refuse .accessNotAllowed := by
  simp [hostWrite, inBlock_offset hlt, mt (accessAllowed_iff hlt).1 h]

/-! ## Writes that are ignored (20 R53, R54) -/

/-- Only a register or DATA takes a write: TABLE, PAYLOAD_OUT and the reserved region ignore it. -/
theorem writes_ignored {s : State} {off n : Nat} (ha : AccessInTable off n) (hb : s.busy = false)
    (hreg : ∀ r, regionOf off ≠ .reg r) (hdata : ∀ i, regionOf off ≠ .data i) (v : Word) : Writes s off n v s :=
  writes_of_writeIdle ha hb fun es => by
    cases hr : regionOf off with
    | reg r => exact absurd hr (hreg r)
    | data i => exact absurd hr (hdata i)
    | table | payloadOut | reserved => rw [writeIdle, hr]

/-- The part of DATA at and above BUF_BYTES stores nothing. -/
theorem writeData_above {s : State} {i : Nat} (h : s.cfg.bufBytes ≤ i) (n : Nat) (v : Word) :
    writeData i n v s = s := by
  simp [writeData, Nat.sub_eq_zero_of_le h]

theorem writes_data_above {s : State} {off n i : Nat} (ha : AccessInTable off n) (hb : s.busy = false)
    (hr : regionOf off = .data i) (hi : s.cfg.bufBytes ≤ i) (v : Word) : Writes s off n v s :=
  writes_of_writeIdle ha hb fun es => by
    rw [writeIdle, hr]
    exact congrArg Action.done (writeData_above (s := { s with events := es }) hi n v)

/-- The registers all of whose bits are read-only (20 R54). STATUS is not among them: its write has the W1C rules. -/
def readOnlyRegs : List Reg :=
  [.id, .crc, .result, .frameCounter, .payloadSize, .hdrCrc, .payCrc, .consumed, .bufSize]

theorem writeReg_readOnly {r : Reg} (hr : r ∈ readOnlyRegs) (v : Word) (s : State) : writeReg r v s = s := by
  simp only [readOnlyRegs, List.mem_cons, List.not_mem_nil, or_false] at hr
  rcases hr with rfl | rfl | rfl | rfl | rfl | rfl | rfl | rfl | rfl <;> rfl

theorem writes_readOnly {s : State} (hb : s.busy = false) {r : Reg} (hr : r ∈ readOnlyRegs) (v : Word) :
    Writes s (regOffset r) 4 v s := by
  have hcmd : r ≠ .cmd := by
    rintro rfl
    exact absurd hr (by decide)
  have h := writes_reg hb hcmd v
  rwa [writeReg_readOnly hr] at h

theorem writes_table {s : State} (hb : s.busy = false) {i : Nat} (hi : i < 256) (v : Word) :
    Writes s (0x400 + 4 * i) 4 v s := by
  have hr := regionOf_table hi
  exact writes_ignored (accessInTable_word (by omega) (by omega)) hb (by simp [hr]) (by simp [hr]) v

theorem writes_payloadOut {s : State} (hb : s.busy = false) {i n : Nat} (ha : AccessInTable (0x40000 + i) n)
    (hi : i < 0x10000) (v : Word) : Writes s (0x40000 + i) n v s := by
  have hr := regionOf_payloadOut hi
  exact writes_ignored ha hb (by simp [hr]) (by simp [hr]) v

/-- A STATUS write leaves ERRCODE, or clears it together with ERR. -/
theorem writeStatus_errcode_cases (v : Word) (s : State) :
    (writeStatus v s).errcode = s.errcode ∨
      ((writeStatus v s).errcode = .noError ∧ (writeStatus v s).err = false) := by
  rw [writeStatus_err, writeStatus_errcode]
  cases v.getLsbD 2 with
  | false => exact .inl rfl
  | true => exact .inr ⟨rfl, Bool.and_false _⟩

theorem writeStatus_raises_no_err {v : Word} {s : State} (h : (writeStatus v s).err = true) : s.err = true := by
  rw [writeStatus_err, Bool.and_eq_true] at h
  exact h.1

/-! ## Reserved offsets (10 R37, 20 R53) -/

theorem regOffset_lt (r : Reg) : regOffset r < 0x03C := by
  cases r <;> decide

/-- What 10 R37 reserves, as the address map sees it: its reserved region, DATA from BUF_BYTES up, and the last byte of
PAYLOAD_OUT. -/
theorem regionOf_reservedOffset {s : State} {off : Nat} (h : ReservedOffset s off) :
    regionOf off = .reserved ∨ (∃ i, regionOf off = .data i ∧ s.cfg.bufBytes ≤ i) ∨
      regionOf off = .payloadOut maxPayloadSize := by
  unfold ReservedOffset at h
  rcases regionOf_cases off with ⟨r, _, ho⟩ | ⟨i, hi, _, ho⟩ | ⟨i, hr, ho⟩ | ⟨i, hr, ho⟩ | ⟨hr, _⟩
  · have := regOffset_lt r
    omega
  · omega
  · exact .inr (.inl ⟨i, hr, by omega⟩)
  · obtain rfl : i = maxPayloadSize := by unfold maxPayloadSize; omega
    exact .inr (.inr hr)
  · exact .inl hr

theorem wordOfBytes_zero {bs : List Byte} (h : ∀ b ∈ bs, b = 0) : wordOfBytes bs = 0 := by
  induction bs with
  | nil => rfl
  | cons b bs ih =>
    obtain ⟨rfl, hbs⟩ := List.forall_mem_cons.1 h
    rw [wordOfBytes, ih hbs]
    rfl

/-- Every byte of a DATA read at and above BUF_BYTES is 0, and so is the read. -/
theorem readValue_data_above {s : State} {off i : Nat} (hr : regionOf off = .data i) (hi : s.cfg.bufBytes ≤ i)
    (n : Nat) :
    readValue s off n = 0 := by
  rw [readValue, hr]
  refine wordOfBytes_zero (List.forall_mem_map.2 fun k _ => if_neg ?_)
  omega

/-- Byte 65535 of PAYLOAD_OUT is reserved (10 R37), and no byte stands above it. -/
theorem readValue_payloadOut_last {s : State} {off : Nat} (hr : regionOf off = .payloadOut maxPayloadSize) (n : Nat) :
    readValue s off n = 0 := by
  rw [readValue, hr]
  refine wordOfBytes_zero (List.forall_mem_map.2 fun k _ => if_neg ?_)
  omega

/-! ## The writable bits of the RW registers (10 R19, R29) -/

/-- What CTRL reads back after a write: bit 0 alone. -/
theorem ctrl_readback (v : Word) : (0#31 ++ BitVec.ofBool (v.getLsbD 0) : Word) = v &&& 1 := by
  apply BitVec.eq_of_getLsbD_eq
  intro j hj
  rw [BitVec.getLsbD_append, BitVec.getLsbD_and]
  cases j <;> simp

/-- What DIN reads back after a write: the low byte alone. -/
theorem din_readback (v : Word) : (v.setWidth 8).setWidth 32 = v &&& 0xFF := by
  apply BitVec.eq_of_toNat_eq
  have hmask : (0xFF : Word).toNat = 2 ^ 8 - 1 := rfl
  rw [BitVec.toNat_setWidth, BitVec.toNat_setWidth, BitVec.toNat_and, hmask, Nat.and_two_pow_sub_one_eq_mod]
  omega

/-! ## The statements -/

/-- Settles O8: the machine's check is the table, and past the check nothing refuses. -/
theorem accessesOutsideTheTableAreRefused : Obligations.AccessesOutsideTheTableAreRefused := by
  intro s es off n v hlt
  refine ⟨fun h => ⟨?_, ?_⟩, fun h => ⟨⟨_, reads_readValue s h⟩, step_write_next s es h v⟩⟩
  · have e := hostRead_notAllowed (s := { s with events := es }) hlt h
    simp only [step, nextAction, e]
  · have e := hostWrite_notAllowed (s := { s with events := es }) v hlt h
    simp only [step, nextAction, e]

/-- Settles O32, by the three kinds of reserved offset. -/
theorem reservedOffsetsReadZero : Obligations.ReservedOffsetsReadZero := by
  intro s off n ha hres
  have hread := reads_readValue s ha
  rcases regionOf_reservedOffset hres with hr | ⟨i, hr, hi⟩ | hr
  · rw [readValue, hr] at hread
    exact ⟨hread, fun hb => writes_ignored ha hb (by simp [hr]) (by simp [hr])⟩
  · rw [readValue_data_above hr hi] at hread
    exact ⟨hread, fun hb => writes_data_above ha hb hr hi⟩
  · rw [readValue_payloadOut_last hr] at hread
    exact ⟨hread, fun hb => writes_ignored ha hb (by simp [hr]) (by simp [hr])⟩

/-- Settles O33: read-only places by `writes_readOnly` and `writes_ignored`, RW registers by `writes_reg` and a read of
the state after it. -/
theorem readOnlyWritesAreIgnored : Obligations.ReadOnlyWritesAreIgnored := by
  intro s v hb
  have hreadOnly : ∀ off ∈ readOnlyRegs.map regOffset, Writes s off 4 v s :=
    List.forall_mem_map.2 fun r hr => writes_readOnly hb hr v
  have hwrite {r : Reg} (hr : r ≠ .cmd) : Writes s (regOffset r) 4 v (writeReg r v s) := writes_reg hb hr v
  refine ⟨hreadOnly, fun i hi => writes_table hb hi v, fun off n ha hlo hhi => ?_,
    ⟨_, hwrite (r := .status) (by decide), rfl, writeStatus_raises_no_err, writeStatus_errcode_cases v s⟩,
    ⟨_, hwrite (r := .ctrl) (by decide), rfl, ?_⟩,
    ⟨_, hwrite (r := .start) (by decide), rfl, reads_reg _ .start⟩,
    ⟨_, hwrite (r := .len) (by decide), rfl, reads_reg _ .len⟩,
    ⟨_, hwrite (r := .din) (by decide), BitVec.setWidth_eq_extractLsb' (show 8 ≤ 32 by decide), rfl, ?_⟩⟩
  · obtain ⟨i, rfl⟩ := Nat.exists_eq_add_of_le hlo
    exact writes_payloadOut hb ha (by omega) v
  · rw [← ctrl_readback]
    exact reads_reg _ .ctrl
  · rw [← din_readback]
    exact reads_reg _ .din

end Sys2Proof.Machine
end

section
/-! Proofs of the statements of 30_encoding.md. First the opcode map, then what decoding a word is: it inverts the
encoder, and a word below 16 is decided by its OP alone. -/

namespace Sys2Proof

/-! ## The opcode map -/

/-- The opcode map gives each command's OP code back (30 R76). -/
@[simp] theorem decodeOp_opCode (i : Instr) : decodeOp (opCode i) = .ok i := by
  cases i <;> rfl

/-- An OP above the five codes of the map is reserved (30 R77). -/
theorem decodeOp_reserved {op : BitVec 4} (h : 5 ≤ op.toNat) : decodeOp op = .error .reservedOp := by
  unfold decodeOp
  split
  case h_6 => rfl
  all_goals omega

/-! ## Words with RSVD = 0 -/

/-- With RSVD = 0 the OP field alone decides (30 R66). -/
theorem decode_of_rsvd_eq_zero {w : Word} (h : w.extractLsb' 4 28 = 0) : decode w = decodeOp (w.extractLsb' 0 4) :=
  if_pos h

/-- Decoding inverts encoding: the word has RSVD = 0 and the command's code in OP. -/
@[simp] theorem decode_encode (i : Instr) : decode (encode i) = .ok i := by
  have hrsvd : (encode i).extractLsb' 4 28 = 0 := BitVec.extractLsb'_append_eq_left
  have hop : (encode i).extractLsb' 0 4 = opCode i := BitVec.extractLsb'_append_eq_right
  rw [decode_of_rsvd_eq_zero hrsvd, hop, decodeOp_opCode]

/-- A word below 16 has RSVD = 0. -/
theorem rsvd_eq_zero_of_toNat_lt {w : Word} (h : w.toNat < 16) : w.extractLsb' 4 28 = 0 := by
  apply BitVec.eq_of_toNat_eq
  rw [BitVec.extractLsb'_toNat, Nat.shiftRight_eq_div_pow, Nat.div_eq_of_lt h]
  rfl

/-- A word below 16 has its own value in OP. -/
theorem op_toNat_of_toNat_lt {w : Word} (h : w.toNat < 16) : (w.extractLsb' 0 4).toNat = w.toNat := by
  rw [BitVec.extractLsb'_toNat, Nat.shiftRight_zero, Nat.mod_eq_of_lt h]

/-! ## The statement -/

/-- Settles O1: the words 0 to 4 are the five commands' encodings, and a word from 5 to 15 has RSVD = 0 and itself as
its OP, which the opcode map reserves. -/
theorem commandWordsDecode : Obligations.CommandWordsDecode := by
  refine ⟨decode_encode .nop, decode_encode .crcInit, decode_encode .crcByte, decode_encode .crcSpan,
    decode_encode .parse, fun w hlo hhi => ?_⟩
  have hlt : w.toNat < 16 := Nat.lt_succ_of_le hhi
  rw [decode_of_rsvd_eq_zero (rsvd_eq_zero_of_toNat_lt hlt)]
  exact decodeOp_reserved (hlo.trans_eq (op_toNat_of_toNat_lt hlt).symm)

end Sys2Proof
end

section
/-! Proofs of the statements of 40_crc_engine.md. What a command can write is said once: the CRC commands complete with
a new accumulator and nothing else of their own, and PARSE has the same accumulator at every moment of its life. -/

namespace Sys2Proof.Machine

open Sys2Proof.Safety

/-! ## What the CRC commands write (40 R87 to R90) -/

/-- Every command but PARSE completes as the common end of a state with another accumulator and another count of free
values; NOP keeps the accumulator too. -/
theorem exec_completing_of_ne_parse {i : Instr} (hi : i ≠ .parse) {s : State} {c : Command} (h : Completing s c)
    (hc : c.op = i) :
    ∃ crc draws, (i = .nop → crc = s.crc) ∧
      exec i s = .next (finishCommand { s with crc := crc, draws := draws }) := by
  obtain ⟨hb, hp⟩ := h
  have complete := runCommand_pending hb hp hc
  unfold exec
  cases i with
  | nop => exact ⟨s.crc, s.draws, fun _ => rfl, complete _⟩
  | crcInit => exact ⟨crcInitValue, s.draws, nofun, complete _⟩
  | crcByte => exact ⟨crcUpdate s.crc c.din, s.draws, nofun, complete _⟩
  | crcSpan => exact ⟨crc16 (window s c), s.draws + c.len.toNat, nofun, complete _⟩
  | parse => exact absurd rfl hi

/-! ## PARSE and the accumulator (41 R111) -/

/-- Issuing a command does not touch the accumulator, in range or not. -/
@[simp] theorem startCommand_crc (i : Instr) (s : State) : (startCommand i s).crc = s.crc := by
  rcases startCommand_cases i s with ⟨_, _, e⟩ | ⟨_, e⟩
  · rw [e, raiseCmdError_crc]
  · rw [e, acceptCommand_crc]

/-- A meaning whose effect keeps the accumulator keeps it when issued, completed or ignored. -/
theorem runCommand_crc {i : Instr} {effect : Command → State → State} {s t : State}
    (heffect : ∀ c, (effect c s).crc = s.crc) (h : runCommand i effect s = .next t) : t.crc = s.crc := by
  rcases runCommand_cases i effect s with ⟨_, e⟩ | ⟨c, _, _, _, e⟩ | ⟨_, _, e⟩ <;>
    obtain rfl := Host.Outcome.next.inj (e.symm.trans h)
  · exact startCommand_crc i s
  · exact (finishCommand_crc _).trans (heffect c)
  · exact raiseCmdError_crc .busyWrite s

theorem exec_parse_crc {s t : State} (h : exec .parse s = .next t) : t.crc = s.crc := by
  unfold exec at h
  refine runCommand_crc (fun c => ?_) h
  exact writeParseOut_crc (parseFrame (window s c)) s

/-! ## The statement -/

/-- Settles O24: a CRC command's next state is the old one up to the accumulator, the count of free values and the common
end, and every field is read off it; PARSE keeps the accumulator by `exec_parse_crc`. -/
theorem crcAndParseDoNotDisturbEachOther : Obligations.CrcAndParseDoNotDisturbEachOther := by
  refine ⟨fun i s t c hi hcompleting hc h => ?_, fun s t => exec_parse_crc⟩
  obtain ⟨crc, draws, hnop, e⟩ := exec_completing_of_ne_parse hi hcompleting hc
  obtain rfl := Host.Outcome.next.inj (e.symm.trans h)
  simpa using hnop

end Sys2Proof.Machine
end

section
/-! Proofs of the statements of 41_frame_parser.md. The completion of PARSE is said once, as the register writes of
`parse_frame`'s record and the common end; each statement is then an exit of `parse_frame` put into it. -/

namespace Sys2Proof.Machine

open Sys2Proof.Safety

/-! ## The completion of PARSE (41 R105) -/

/-- What the completing PARSE leaves when `parse_frame` answers the record `o`. -/
def parsedState (o : ParseOut) (c : Command) (s : State) : State :=
  finishCommand { writeParseOut o s with draws := s.draws + c.len.toNat }

theorem exec_parse_completing {s : State} {c : Command} (h : Completing s c) (hc : c.op = .parse) :
    exec .parse s = .next (parsedState (parseFrame (window s c)) c s) := by
  obtain ⟨hb, hp⟩ := h
  have complete := runCommand_pending hb hp hc
  unfold exec
  exact complete _

/-- Without SUCCESS the completion leaves PAYLOAD_OUT as it stands (41 R107). -/
theorem parsedState_of_not_success {o : ParseOut} (h : o.res ≠ .success) (c : Command) (s : State) :
    parsedState o c s =
      { s with
        result := o.res, frameCounter := o.fc, payloadSize := o.ps, hdrRx := o.hrx, hdrCalc := o.hcalc
        payRx := o.prx, payCalc := o.pcalc, consumed := BitVec.ofNat 17 o.consumed
        draws := s.draws + c.len.toNat, busy := false, done := true, pending := none } := by
  simp only [parsedState, finishCommand, writeParseOut, if_neg h]

/-! ## The header bytes (41 R100, R101) -/

/-- The low byte comes first. -/
theorem le16_eq_append (w : List Byte) (i : Nat) : le16 w i = w.getD (i + 1) 0 ++ w.getD i 0 := by
  apply BitVec.eq_of_getLsbD_eq
  intro j hj
  rw [le16, BitVec.getLsbD_or, BitVec.getLsbD_shiftLeft, BitVec.getLsbD_setWidth, BitVec.getLsbD_setWidth,
    BitVec.getLsbD_append]
  by_cases h : j < 8
  · simp [h, hj]
  · simp [h, hj, BitVec.getLsbD_of_ge, show 8 ≤ j by omega, show j - 8 < 16 by omega]

theorem getD_take {w : List Byte} {i n : Nat} (h : i < n) (d : Byte) : (w.take n).getD i d = w.getD i d := by
  rw [List.getD_eq_getElem?_getD, List.getD_eq_getElem?_getD, List.getElem?_take_of_lt h]

theorem le16_take {w : List Byte} {i n : Nat} (h : i + 1 < n) : le16 (w.take n) i = le16 w i := by
  rw [le16, le16, getD_take h, getD_take (Nat.lt_of_succ_lt h)]

/-- The exit of step 4: the header fields are kept and nothing else is set (41 R101). -/
theorem parseHeader_of_wrongCrc {w : List Byte} (h : crc16 (slice w 0 6) ≠ le16 w 6) :
    parseHeader w = headerOut w .invalidHeaderCrc := by
  rcases parseHeader_cases w with ⟨e, _⟩ | ⟨_, e, _⟩ | ⟨_, e, _⟩
  · exact e
  all_goals exact absurd e h

/-! ## What PARSE writes of PAYLOAD_OUT (41 R107, R109) -/

/-- Steps 6 and 7 give a payload no longer than the size the header reports. -/
theorem parsePayload_payload_length_le {o : ParseOut} (h : o.payload = []) (w : List Byte) :
    (parsePayload w o).payload.length ≤ (parsePayload w o).ps.toNat := by
  rcases parsePayload_cases w o with ⟨e, _⟩ | ⟨e, _⟩ <;> rw [e]
  · simp [h]
  · simp only [slice_length]
    omega

theorem parseHeader_payload_length_le (w : List Byte) :
    (parseHeader w).payload.length ≤ (parseHeader w).ps.toNat := by
  rcases parseHeader_cases w with ⟨e, _⟩ | ⟨e, _⟩ | ⟨e, _⟩ <;> rw [e]
  · exact Nat.zero_le _
  · exact Nat.zero_le _
  · exact parsePayload_payload_length_le rfl w

theorem parseFrame_payload_length_le (w : List Byte) :
    (parseFrame w).payload.length ≤ (parseFrame w).ps.toNat := by
  by_cases hlen : w.length < 8
  · rw [parseFrame_short hlen]
    exact Nat.zero_le _
  have hlong : 8 ≤ w.length := Nat.le_of_not_lt hlen
  by_cases hpre : w.getD 0 0 = 0xFA ∧ w.getD 1 0 = 0xCE
  · rw [parseFrame_header hlong hpre.1 hpre.2]
    exact parseHeader_payload_length_le w
  · rw [parseFrame_preamble hlong (not_and_or.1 hpre)]
    exact Nat.zero_le _

/-- The register writes of PARSE reach PAYLOAD_OUT below PAYLOAD_SIZE on SUCCESS, and nowhere else. -/
theorem read_writeParseOut_payloadOut {o : ParseOut} (ho : o.payload.length ≤ o.ps.toNat) {a : Nat}
    (h : ¬ (o.res = .success ∧ a < o.ps.toNat)) (s : State) :
    Memory.read (writeParseOut o s).payloadOut a = Memory.read s.payloadOut a := by
  rw [writeParseOut_payloadOut]
  split
  next hs =>
    have ha : ¬ a < o.ps.toNat := fun hlt => h ⟨hs, hlt⟩
    rw [Memory.read_store, if_neg (by omega)]
  next => rfl

/-! ## The statements -/

/-- Settles O17, by the exit of step 1. -/
theorem parseOfShortWindow : Obligations.ParseOfShortWindow := by
  intro s c hcompleting hc hlen
  have hshort : (window s c).length < 8 := by rwa [window_length]
  rw [exec_parse_completing hcompleting hc, parseFrame_short hshort, parsedState_of_not_success (by nofun)]
  rfl

/-- Settles O18, by the exit of step 2. -/
theorem parseOfWrongPreamble : Obligations.ParseOfWrongPreamble := by
  intro s c hcompleting hc hlen hpre
  have hlong : 8 ≤ (window s c).length := by rwa [window_length]
  rw [exec_parse_completing hcompleting hc, parseFrame_preamble hlong (not_and_or.1 hpre),
    parsedState_of_not_success (by nofun)]
  rfl

/-- Settles O19, by the exit of step 4: the fields read from the window are those of its first eight bytes. -/
theorem parseOfWrongHeaderCrc : Obligations.ParseOfWrongHeaderCrc := by
  intro s c h hcompleting hc hlen hh h0 h1 hcrc
  have hlong : 8 ≤ (window s c).length := by rwa [window_length]
  subst hh
  have hslice : ((window s c).take 8).take 6 = slice (window s c) 0 6 := List.take_take
  rw [getD_take (by decide)] at h0 h1
  simp only [← le16_eq_append, le16_take, hslice, Nat.reduceAdd, Nat.reduceLT] at hcrc ⊢
  rw [exec_parse_completing hcompleting hc, parseFrame_header hlong h0 h1, parseHeader_of_wrongCrc hcrc,
    parsedState_of_not_success (by nofun)]
  rfl

/-- Settles O25, field by field on the completion's state; for PAYLOAD_OUT, the copied payload ends at PAYLOAD_SIZE. -/
theorem parseLeavesInputAndAccumulator : Obligations.ParseLeavesInputAndAccumulator := by
  intro s t c hcompleting hc h
  obtain rfl := Host.Outcome.next.inj ((exec_parse_completing hcompleting hc).symm.trans h)
  have hpayload := parseFrame_payload_length_le (window s c)
  exact ⟨fun _ => rfl, rfl, fun a ha => read_writeParseOut_payloadOut hpayload ha s,
    rfl, rfl, rfl, rfl, rfl, rfl, rfl, rfl, rfl⟩

end Sys2Proof.Machine
end

section
/-! Proofs of the statements of 60_exceptions.md. A CMD write while BUSY = 0 is said once, by what its word decodes to: an
error raises ILLEGAL_CMD, and a command is issued, which is `startCommand` for every command. -/

namespace Sys2Proof.Machine

open Sys2Proof.Safety

/-! ## While BUSY = 1 (60 R127) -/

theorem writes_busy {s : State} {off n : Nat} (ha : AccessInTable off n) (hb : s.busy = true) (v : Word) :
    Writes s off n v (raiseCmdError .busyWrite s) := by
  intro es
  have e := hostWrite_busy (s := { s with events := es }) (v := v) ha hb
  simp only [step, nextAction, e]
  rfl

/-! ## The word written to CMD (30 R66, R77) -/

/-- RSVD other than 0, or an OP above 4, stands for no command. -/
theorem decode_error_of_illegal {w : Word} (h : w.extractLsb' 4 28 ≠ 0 ∨ 4 < (w.extractLsb' 0 4).toNat) :
    ∃ e, decode w = .error e := by
  by_cases hrsvd : w.extractLsb' 4 28 = 0
  · have hop : 4 < (w.extractLsb' 0 4).toNat := h.resolve_left (not_not_intro hrsvd)
    exact ⟨.reservedOp, (decode_of_rsvd_eq_zero hrsvd).trans (decodeOp_reserved hop)⟩
  · exact ⟨.reservedBits, if_neg hrsvd⟩

theorem writeIdle_cmd (n : Nat) (v : Word) (s : State) : writeIdle 0x00C n v s = issueWord v s := rfl

theorem issueWord_of_error {v : Word} {e : DecodeError} (he : decode v = .error e) (s : State) :
    issueWord v s = .done (raiseCmdError .illegalCmd s) := by
  rw [issueWord, he]

theorem issueWord_of_ok {v : Word} {i : Instr} (hi : decode v = .ok i) (s : State) : issueWord v s = .run i s := by
  rw [issueWord, hi]

theorem writes_cmd_of_decode_error {s : State} (hb : s.busy = false) {v : Word} {e : DecodeError}
    (he : decode v = .error e) : Writes s 0x00C 4 v (raiseCmdError .illegalCmd s) :=
  writes_of_writeIdle (accessInTable_regOffset .cmd) hb fun es => by
    rw [writeIdle_cmd, issueWord_of_error he]
    rfl

/-! ## The issue of a command (60 R128) -/

/-- While BUSY = 0 every command's meaning is its issue. -/
theorem exec_idle {s : State} (hb : s.busy = false) (i : Instr) : exec i s = .next (startCommand i s) := by
  have issue (effect : Command → State → State) : runCommand i effect s = .next (startCommand i s) := by
    simp [runCommand, hb]
  unfold exec
  cases i with
  | nop | crcInit | crcByte | crcSpan | parse => exact issue _

/-- Issuing a command does not look at what is still to come. -/
theorem startCommand_withEvents (i : Instr) (s : State) (es : List Event) :
    startCommand i { s with events := es } = { startCommand i s with events := es } := by
  have hrange : windowInRange { s with events := es } = windowInRange s := rfl
  unfold startCommand
  rw [hrange]
  split <;> rfl

theorem writes_cmd_of_decode_ok {s : State} (hb : s.busy = false) {v : Word} {i : Instr} (hi : decode v = .ok i) :
    Writes s 0x00C 4 v (startCommand i s) := by
  intro es
  have ha : AccessInTable 0x00C 4 := accessInTable_regOffset .cmd
  have e := hostWrite_idle (s := { s with events := es }) (v := v) ha hb
  rw [writeIdle_cmd, issueWord_of_ok hi] at e
  simp only [step, nextAction, e]
  rw [exec_idle (s := { s with events := es }) hb, startCommand_withEvents]

theorem usesWindow_iff (i : Instr) : usesWindow i = true ↔ i = .crcSpan ∨ i = .parse := by
  cases i <;> decide

theorem windowInRange_eq_false_iff (s : State) :
    windowInRange s = false ↔ s.cfg.bufBytes < s.start.toNat + s.len.toNat := by
  rw [windowInRange, decide_eq_false_iff_not, Nat.not_le]

theorem startCommand_windowRange {i : Instr} {s : State}
    (h : (i = .crcSpan ∨ i = .parse) ∧ s.cfg.bufBytes < s.start.toNat + s.len.toNat) :
    startCommand i s = raiseCmdError .windowRange s := by
  rw [← usesWindow_iff, ← windowInRange_eq_false_iff] at h
  obtain ⟨huses, hout⟩ := h
  simp [startCommand, huses, hout]

theorem startCommand_accepts {i : Instr} {s : State}
    (h : ¬ ((i = .crcSpan ∨ i = .parse) ∧ s.cfg.bufBytes < s.start.toNat + s.len.toNat)) :
    startCommand i s = acceptCommand i s := by
  rw [← usesWindow_iff, ← windowInRange_eq_false_iff] at h
  rcases startCommand_cases i s with ⟨huses, hout, _⟩ | ⟨_, e⟩
  · exact absurd ⟨huses, hout⟩ h
  · exact e

/-! ## The statements -/

/-- Settles O5: the three branches are a decoding error, a window out of range and acceptance. -/
theorem commandAcceptance : Obligations.CommandAcceptance := by
  intro s v hb
  refine ⟨fun hillegal => ?_, fun i hi => ⟨fun hout => ?_, fun hin => ?_⟩⟩
  · obtain ⟨e, he⟩ := decode_error_of_illegal hillegal
    exact writes_cmd_of_decode_error hb he
  · have h := writes_cmd_of_decode_ok hb hi
    rwa [startCommand_windowRange hout] at h
  · have h := writes_cmd_of_decode_ok hb hi
    rwa [startCommand_accepts hin] at h

/-- Settles O6: every allowed write raises BUSY_WRITE, and an allowed read answers whether or not the block is busy. -/
theorem busyWriteIsIgnored : Obligations.BusyWriteIsIgnored := by
  intro s off n hb ha
  exact ⟨writes_busy ha hb, _, reads_readValue s ha⟩

end Sys2Proof.Machine
end

section
/-! Proofs of the statements about the completion of each command (60_exceptions.md R129). What a completion leaves is
said once, for every command, with each of its fields. -/

namespace Sys2Proof.Machine

open Sys2Proof.Safety

/-! ## What a completion leaves (40 R87 to R90, 41 R105) -/

/-- The state the completion of `c` leaves: its effect on the sampled operands, then the common end. -/
def completed (c : Command) (s : State) : State :=
  match c.op with
  | .nop => finishCommand s
  | .crcInit => finishCommand { s with crc := crcInitValue }
  | .crcByte => finishCommand { s with crc := crcUpdate s.crc c.din }
  | .crcSpan => finishCommand { s with crc := crc16 (window s c), draws := s.draws + c.len.toNat }
  | .parse => parsedState (parseFrame (window s c)) c s

theorem exec_completing {s : State} {c : Command} (h : Completing s c) : exec c.op s = .next (completed c s) := by
  obtain ⟨hb, hp⟩ := h
  have complete {i : Instr} (hi : c.op = i) := runCommand_pending hb hp hi
  unfold completed exec
  cases hi : c.op with
  | nop | crcInit | crcByte | crcSpan | parse => exact complete hi _

theorem exec_completing_eq {i : Instr} {s : State} {c : Command} (h : Completing s c) (hi : c.op = i) :
    exec i s = .next (completed c s) := hi ▸ exec_completing h

theorem completed_parse {c : Command} (hc : c.op = .parse) (s : State) :
    completed c s = parsedState (parseFrame (window s c)) c s := by
  simp only [completed, hc]

/-- Every command but PARSE writes the accumulator at most, and counts free values. -/
theorem completed_of_ne_parse {c : Command} (hc : c.op ≠ .parse) (s : State) :
    ∃ crc draws, completed c s = finishCommand { s with crc := crc, draws := draws } := by
  unfold completed
  cases hi : c.op with
  | nop | crcInit | crcByte | crcSpan => exact ⟨_, _, rfl⟩
  | parse => exact absurd hi hc

@[simp] theorem completed_busy (c : Command) (s : State) : (completed c s).busy = false := by
  unfold completed; split <;> rfl

@[simp] theorem completed_done (c : Command) (s : State) : (completed c s).done = true := by
  unfold completed; split <;> rfl

@[simp] theorem completed_cfg (c : Command) (s : State) : (completed c s).cfg = s.cfg := by
  unfold completed; split <;> rfl

@[simp] theorem completed_ctrlIe (c : Command) (s : State) : (completed c s).ctrlIe = s.ctrlIe := by
  unfold completed; split <;> rfl

@[simp] theorem completed_err (c : Command) (s : State) : (completed c s).err = s.err := by
  unfold completed; split <;> rfl

@[simp] theorem completed_errcode (c : Command) (s : State) : (completed c s).errcode = s.errcode := by
  unfold completed; split <;> rfl

@[simp] theorem completed_start (c : Command) (s : State) : (completed c s).start = s.start := by
  unfold completed; split <;> rfl

@[simp] theorem completed_len (c : Command) (s : State) : (completed c s).len = s.len := by
  unfold completed; split <;> rfl

@[simp] theorem completed_din (c : Command) (s : State) : (completed c s).din = s.din := by
  unfold completed; split <;> rfl

@[simp] theorem completed_data (c : Command) (s : State) : (completed c s).data = s.data := by
  unfold completed; split <;> rfl

/-! ## The statements -/

/-- Settles O12: the completion of NOP is the common end alone. -/
theorem nopCompletes : Obligations.NopCompletes := by
  intro s c h hc
  rw [exec_completing_eq h hc, completed, hc]
  rfl

/-- Settles O13: the accumulator is overwritten, and the common end follows. -/
theorem crcInitCompletes : Obligations.CrcInitCompletes := by
  intro s c h hc
  rw [exec_completing_eq h hc, completed, hc]
  rfl

/-- Settles O14: the table step of the model indexes with the high byte of CRC, which the statement reads as bits
15 to 8. -/
theorem crcByteCompletes : Obligations.CrcByteCompletes := by
  intro s c h hc
  have hhigh : s.crc.extractLsb' 8 8 = (s.crc >>> 8).setWidth 8 := by
    apply BitVec.eq_of_toNat_eq
    rw [BitVec.extractLsb'_toNat, BitVec.toNat_setWidth, BitVec.toNat_ushiftRight]
  rw [exec_completing_eq h hc, completed, hc, hhigh]
  rfl

theorem exec_crcSpan_completing {s : State} {c : Command} (h : Completing s c) (hc : c.op = .crcSpan) :
    exec .crcSpan s = .next
      { s with
        crc := crc16 (window s c), draws := s.draws + c.len.toNat
        busy := false, done := true, pending := none } := by
  rw [exec_completing_eq h hc, completed, hc]
  rfl

/-- Settles O15; for the second clause, a window whose bytes are written is those bytes. -/
theorem crcSpanCompletes : Obligations.CrcSpanCompletes := by
  intro s c h hc
  refine ⟨exec_crcSpan_completing h hc, fun w hlen hw => ?_⟩
  rw [exec_crcSpan_completing h hc, window_of_written hlen.symm hw]
  rfl

/-- Settles O16: the completion of PARSE writes the record of `parse_frame`. -/
theorem parseCompletes : Obligations.ParseCompletes := by
  intro s c o h hc ho
  rw [exec_completing_eq h hc, completed_parse hc, ← ho]
  rfl

/-- The CRC of one more byte is one more table step (40 R93). -/
theorem crc16_concat (w : List Byte) (b : Byte) : crc16 (w ++ [b]) = crcUpdate (crc16 w) b := by
  simp only [crc16, List.foldl_append, List.foldl_cons, List.foldl_nil]

/-- Settles O26: each clause is the accumulator of the command's completion. -/
theorem accumulatorHoldsCrcOfBytesFed : Obligations.AccumulatorHoldsCrcOfBytesFed := by
  intro s c w h
  refine ⟨fun hc => ⟨_, exec_completing_eq h hc, ?_⟩, fun hc hlen hw => ⟨_, exec_completing_eq h hc, ?_⟩,
    fun hc hcrc => ⟨_, exec_completing_eq h hc, ?_⟩⟩
  · rw [completed, hc]
    rfl
  · rw [completed, hc, ← window_of_written hlen.symm hw]
    rfl
  · rw [completed, hc, crc16_concat, ← hcrc]
    rfl

end Sys2Proof.Machine
end

section
/-! Proofs of the statements about `parse_frame` (41_frame_parser.md section 1) and PARSE. The steps of R98 to R104 are
three checks on the window and one record for each exit; how the bytes of a frame lie in a window is said once. -/

namespace Sys2Proof.Machine

open Sys2Proof.Safety

/-! ## The checks of `parse_frame` and its exits (41 R98 to R104) -/

/-- The payload of the frame at the start of `w`, as long as its header says. -/
def framePayload (w : List Byte) : List Byte := slice w 8 (8 + (le16 w 4).toNat)

/-- The trailer after that payload. -/
def frameTrailer (w : List Byte) : Half := le16 w (8 + (le16 w 4).toNat)

/-- The window starts with FA CE and eight bytes (R98, R99). -/
abbrev PreambleOk (w : List Byte) : Prop := 8 ≤ w.length ∧ w.getD 0 0 = 0xFA ∧ w.getD 1 0 = 0xCE

/-- It starts with a valid header (R101). -/
abbrev HeaderOk (w : List Byte) : Prop := PreambleOk w ∧ crc16 (slice w 0 6) = le16 w 6

/-- It holds the whole frame of that header (R102). -/
abbrev FrameFits (w : List Byte) : Prop := HeaderOk w ∧ 10 + (le16 w 4).toNat ≤ w.length

/-- The record that steps 3, 4 and 6 fill in. -/
def checkedOut (w : List Byte) (r : ParseResult) : ParseOut :=
  { headerOut w r with pcalc := crc16 (framePayload w), prx := frameTrailer w }

/-- The record of SUCCESS. -/
def successOut (w : List Byte) : ParseOut :=
  { checkedOut w .success with consumed := 10 + (le16 w 4).toNat, payload := framePayload w }

theorem parseFrame_wrongHeaderCrc {w : List Byte} (hp : PreambleOk w) (h : crc16 (slice w 0 6) ≠ le16 w 6) :
    parseFrame w = headerOut w .invalidHeaderCrc := by
  obtain ⟨hlen, h0, h1⟩ := hp
  rw [parseFrame_header hlen h0 h1, parseHeader_of_wrongCrc h]

theorem parseFrame_incomplete {w : List Byte} (hh : HeaderOk w) (h : w.length < 10 + (le16 w 4).toNat) :
    parseFrame w = headerOut w .insufficientData := by
  obtain ⟨⟨hlen, h0, h1⟩, hcrc⟩ := hh
  rw [parseFrame_header hlen h0 h1]
  rw [← frameLength_eq] at h
  rcases parseHeader_cases w with ⟨_, hne⟩ | ⟨e, _⟩ | ⟨_, _, hfit⟩
  · exact absurd hcrc hne
  · exact e
  · omega

/-- Past the completeness check only the payload CRC is left (R103). -/
theorem parseFrame_fits {w : List Byte} (hf : FrameFits w) :
    parseFrame w = parsePayload w (headerOut w .noResult) := by
  obtain ⟨⟨⟨hlen, h0, h1⟩, hcrc⟩, hfit⟩ := hf
  rw [parseFrame_header hlen h0 h1]
  rw [← frameLength_eq] at hfit
  rcases parseHeader_cases w with ⟨_, hne⟩ | ⟨_, _, hlt⟩ | ⟨e, _⟩
  · exact absurd hcrc hne
  · omega
  · exact e

theorem parseFrame_wrongPayloadCrc {w : List Byte} (hf : FrameFits w) (h : crc16 (framePayload w) ≠ frameTrailer w) :
    parseFrame w = checkedOut w .invalidPayloadCrc := by
  rw [parseFrame_fits hf]
  rcases parsePayload_cases w (headerOut w .noResult) with ⟨e, _⟩ | ⟨_, heq⟩
  · exact e
  · exact absurd heq h

theorem parseFrame_success {w : List Byte} (hf : FrameFits w) (h : crc16 (framePayload w) = frameTrailer w) :
    parseFrame w = successOut w := by
  rw [parseFrame_fits hf]
  rcases parsePayload_cases w (headerOut w .noResult) with ⟨_, hne⟩ | ⟨e, _⟩
  · exact absurd h hne
  · rw [e, successOut, ← frameLength_eq]
    rfl

/-- Every exit of `parse_frame`, with the checks that led to it. -/
theorem parseFrame_cases (w : List Byte) :
    (w.length < 8 ∧ parseFrame w = ParseOut.blank .insufficientData) ∨
    (8 ≤ w.length ∧ (w.getD 0 0 ≠ 0xFA ∨ w.getD 1 0 ≠ 0xCE) ∧ parseFrame w = ParseOut.blank .invalidPreamble) ∨
    (PreambleOk w ∧ crc16 (slice w 0 6) ≠ le16 w 6 ∧ parseFrame w = headerOut w .invalidHeaderCrc) ∨
    (HeaderOk w ∧ w.length < 10 + (le16 w 4).toNat ∧ parseFrame w = headerOut w .insufficientData) ∨
    (FrameFits w ∧ crc16 (framePayload w) ≠ frameTrailer w ∧ parseFrame w = checkedOut w .invalidPayloadCrc) ∨
    (FrameFits w ∧ crc16 (framePayload w) = frameTrailer w ∧ parseFrame w = successOut w) := by
  by_cases hlen : w.length < 8
  · exact .inl ⟨hlen, parseFrame_short hlen⟩
  refine .inr ?_
  have hlong : 8 ≤ w.length := Nat.le_of_not_lt hlen
  by_cases hpre : w.getD 0 0 = 0xFA ∧ w.getD 1 0 = 0xCE
  case neg =>
    have hne := not_and_or.1 hpre
    exact .inl ⟨hlong, hne, parseFrame_preamble hlong hne⟩
  refine .inr ?_
  have hp : PreambleOk w := ⟨hlong, hpre⟩
  by_cases hcrc : crc16 (slice w 0 6) = le16 w 6
  case neg => exact .inl ⟨hp, hcrc, parseFrame_wrongHeaderCrc hp hcrc⟩
  refine .inr ?_
  by_cases hfit : 10 + (le16 w 4).toNat ≤ w.length
  case neg =>
    have hlt := Nat.lt_of_not_le hfit
    exact .inl ⟨⟨hp, hcrc⟩, hlt, parseFrame_incomplete ⟨hp, hcrc⟩ hlt⟩
  refine .inr ?_
  have hf : FrameFits w := ⟨⟨hp, hcrc⟩, hfit⟩
  by_cases hpay : crc16 (framePayload w) = frameTrailer w
  · exact .inr ⟨hf, hpay, parseFrame_success hf hpay⟩
  · exact .inl ⟨hf, hpay, parseFrame_wrongPayloadCrc hf hpay⟩

/-- SUCCESS is answered on a whole frame with both CRCs right, and on nothing else. -/
theorem parseFrame_of_success {w : List Byte} (h : (parseFrame w).res = .success) :
    FrameFits w ∧ crc16 (framePayload w) = frameTrailer w ∧ parseFrame w = successOut w := by
  rcases parseFrame_cases w with ⟨_, e⟩ | ⟨_, _, e⟩ | ⟨_, _, e⟩ | ⟨_, _, e⟩ | ⟨_, _, e⟩ | hs
  case inr.inr.inr.inr.inr => exact hs
  all_goals
    rw [e] at h
    cases h

/-! ## How a frame lies in a window -/

/-- The header record in the bytes of the header `h`, the first eight of the window. -/
theorem headerOut_of_take {w h : List Byte} (hw : w.take 8 = h) (r : ParseResult) :
    headerOut w r =
      { ParseOut.blank r with
        fc := h.getD 3 0 ++ h.getD 2 0, ps := h.getD 5 0 ++ h.getD 4 0, hcalc := crc16 (h.take 6)
        hrx := h.getD 7 0 ++ h.getD 6 0 } := by
  subst hw
  have hslice : (w.take 8).take 6 = slice w 0 6 := List.take_take
  simp only [← le16_eq_append, le16_take, hslice, Nat.reduceAdd, Nat.reduceLT]
  rfl

theorem headerOk_of_take {w h : List Byte} (hlen : 8 ≤ w.length) (hw : w.take 8 = h) (h0 : h.getD 0 0 = 0xFA)
    (h1 : h.getD 1 0 = 0xCE) (hcrc : crc16 (h.take 6) = h.getD 7 0 ++ h.getD 6 0) : HeaderOk w := by
  have hout := headerOut_of_take hw .noResult
  have hcalc : crc16 (slice w 0 6) = crc16 (h.take 6) := congrArg ParseOut.hcalc hout
  have hrx : le16 w 6 = h.getD 7 0 ++ h.getD 6 0 := congrArg ParseOut.hrx hout
  rw [← hw, getD_take (by decide)] at h0 h1
  exact ⟨⟨hlen, h0, h1⟩, hcalc.trans (hcrc.trans hrx.symm)⟩

theorem payloadSize_of_take {w h : List Byte} (hw : w.take 8 = h) : le16 w 4 = h.getD 5 0 ++ h.getD 4 0 :=
  congrArg ParseOut.ps (headerOut_of_take hw .noResult)

section Layout

-- Header `h`, payload `p` and trailer `lo hi` stand at the start of the window.
variable {w h p rest : List Byte} {lo hi : Byte} (hw : w = h ++ p ++ [lo, hi] ++ rest) (hh : h.length = 8)

include hw hh

theorem length_of_layout : 10 + p.length ≤ w.length := by
  subst hw
  simp only [List.length_append, List.length_cons, hh]
  omega

theorem take_of_layout : w.take 8 = h := by
  rw [hw, List.append_assoc, List.append_assoc, ← hh, List.take_left]

theorem framePayload_of_layout (hp : p.length = (le16 w 4).toNat) : framePayload w = p := by
  unfold framePayload slice
  rw [← hp, hw, Nat.add_sub_cancel_left, List.append_assoc, List.append_assoc, ← hh, List.drop_left, List.take_left]

theorem frameTrailer_of_layout (hp : p.length = (le16 w 4).toNat) : frameTrailer w = hi ++ lo := by
  have hdrop : w.drop (8 + p.length) = lo :: hi :: rest := by
    rw [hw, List.append_assoc, ← hh, ← List.length_append, List.drop_left]
    rfl
  have hlo : w[8 + p.length]? = some lo := by
    rw [← List.head?_drop, hdrop, List.head?_cons]
  have hhi : w[8 + p.length + 1]? = some hi := by
    rw [← List.head?_drop, ← List.drop_drop, hdrop]
    rfl
  rw [frameTrailer, ← hp, le16_eq_append, List.getD_eq_getElem?_getD, List.getD_eq_getElem?_getD, hlo, hhi]
  rfl

/-- A window that starts with a valid header, its payload and a trailer holds a whole frame. -/
theorem frameFits_of_layout (h0 : h.getD 0 0 = 0xFA) (h1 : h.getD 1 0 = 0xCE)
    (hcrc : crc16 (h.take 6) = h.getD 7 0 ++ h.getD 6 0) (hp : p.length = (le16 w 4).toNat) : FrameFits w := by
  have hlen := length_of_layout hw hh
  exact ⟨headerOk_of_take (by omega) (take_of_layout hw hh) h0 h1 hcrc, by omega⟩

end Layout

/-! ## The bytes of an encoded frame (45 R113) -/

theorem append_bytesLE (v : Half) : v.extractLsb' 8 8 ++ v.extractLsb' 0 8 = v := by
  rw [BitVec.extractLsb'_append_extractLsb'_eq_extractLsb' (by rfl)]
  exact BitVec.extractLsb'_eq_self

/-- The bytes of a frame: header start, header CRC, payload, payload CRC. -/
def frameBytes (payload : List Byte) (fc : Half) : List Byte :=
  headerStart payload fc ++ bytesLE (crc16 (headerStart payload fc)) ++ payload ++ bytesLE (crc16 payload)

theorem createFrame_eq_ok {payload f : List Byte} {fc : Half} :
    createFrame payload fc = .ok f ↔ payload.length ≤ 65535 ∧ f = frameBytes payload fc := by
  unfold createFrame maxPayloadSize
  split
  next hlarge => exact ⟨nofun, fun h => absurd h.1 (Nat.not_le.2 hlarge)⟩
  next hlen => exact ⟨fun h => ⟨Nat.le_of_not_lt hlen, (Except.ok.inj h).symm⟩, fun h => congrArg Except.ok h.2.symm⟩

theorem length_of_createFrame {payload f : List Byte} {fc : Half} (h : createFrame payload fc = .ok f) :
    f.length = 10 + payload.length := by
  obtain ⟨_, rfl⟩ := createFrame_eq_ok.1 h
  simp only [frameBytes, headerStart, bytesLE, List.length_append, List.length_cons, List.length_nil]
  omega

/-- Settles O51: an encoded frame lies in the window as header, payload and trailer, with both CRCs right. -/
theorem parseOfEncodedFrame : Obligations.ParseOfEncodedFrame := by
  intro payload f extra fc hf
  have hflen := length_of_createFrame hf
  obtain ⟨hlen, rfl⟩ := createFrame_eq_ok.1 hf
  set h := headerStart payload fc ++ bytesLE (crc16 (headerStart payload fc))
  set w := frameBytes payload fc ++ extra
  have hw : w = h ++ payload ++ bytesLE (crc16 payload) ++ extra := rfl
  have htake : w.take 8 = h := take_of_layout hw rfl
  have hsize : le16 w 4 = BitVec.ofNat 16 payload.length := (payloadSize_of_take htake).trans (append_bytesLE _)
  have hp : payload.length = (le16 w 4).toNat := by
    rw [hsize, BitVec.toNat_ofNat, Nat.mod_eq_of_lt (by omega)]
  have hpayload : framePayload w = payload := framePayload_of_layout hw rfl hp
  have htrailer : frameTrailer w = crc16 payload := (frameTrailer_of_layout hw rfl hp).trans (append_bytesLE _)
  have hfits : FrameFits w := frameFits_of_layout hw rfl rfl rfl (append_bytesLE _).symm hp
  rw [parseFrame_success hfits (by rw [hpayload, htrailer]), successOut, checkedOut, headerOut_of_take htake, hpayload,
    htrailer, hflen, ← hp]
  have hfc : h.getD 3 0 ++ h.getD 2 0 = fc := append_bytesLE fc
  have hps : h.getD 5 0 ++ h.getD 4 0 = BitVec.ofNat 16 payload.length := append_bytesLE _
  have hrx : h.getD 7 0 ++ h.getD 6 0 = crc16 (headerStart payload fc) := append_bytesLE _
  rw [hfc, hps, hrx]
  rfl

/-! ## A window in pieces -/

theorem slice_append_slice (w : List Byte) {a b c : Nat} (hab : a ≤ b) (hbc : b ≤ c) :
    slice w a b ++ slice w b c = slice w a c := by
  unfold slice
  rw [← Nat.sub_add_sub_cancel hbc hab, Nat.add_comm, List.take_add, List.drop_drop, Nat.add_sub_cancel' hab]

theorem slice_zero (w : List Byte) (b : Nat) : slice w 0 b = w.take b := rfl

/-- The two bytes of a 16-bit field. -/
theorem bytesLE_le16 {w : List Byte} {i : Nat} (h : i + 2 ≤ w.length) : bytesLE (le16 w i) = slice w i (i + 2) := by
  have hi : i < w.length := by omega
  have hi' : i + 1 < w.length := by omega
  have hslice : slice w i (i + 2) = [w[i], w[i + 1]] := by
    rw [slice, Nat.add_sub_cancel_left, List.drop_eq_getElem_cons hi, List.drop_eq_getElem_cons hi']
    rfl
  rw [hslice, bytesLE, le16_eq_append, BitVec.extractLsb'_append_eq_right, BitVec.extractLsb'_append_eq_left,
    List.getD_eq_getElem w 0 hi, List.getD_eq_getElem w 0 hi']

/-- The first six bytes of a window with a preamble are the header start of the fields read from it. -/
theorem headerStart_of_preambleOk {w payload : List Byte} (h : PreambleOk w)
    (hp : payload.length = (le16 w 4).toNat) : headerStart payload (le16 w 2) = slice w 0 6 := by
  obtain ⟨hlen, h0, h1⟩ := h
  have hpre : slice w 0 2 = [0xFA, 0xCE] := by
    have h0' := List.getD_eq_getElem w (0 : Byte) (show 0 < w.length by omega)
    have h1' := List.getD_eq_getElem w (0 : Byte) (show 1 < w.length by omega)
    rw [slice_zero, List.take_succ_eq_append_getElem (by omega), List.take_succ_eq_append_getElem (by omega),
      List.take_zero, ← h0', ← h1', h0, h1]
    rfl
  have hsize : BitVec.ofNat 16 payload.length = le16 w 4 := by
    rw [hp, BitVec.ofNat_toNat, BitVec.setWidth_eq]
  rw [headerStart, hsize, bytesLE_le16 (by omega), bytesLE_le16 (by omega), ← hpre,
    slice_append_slice w (by omega) (by omega), slice_append_slice w (by omega) (by omega)]

theorem framePayload_length {w : List Byte} (h : FrameFits w) : (framePayload w).length = (le16 w 4).toNat := by
  obtain ⟨_, hfit⟩ := h
  rw [framePayload, slice_length]
  omega

/-- Settles O52: the frame is the header start, the header CRC, the payload and its CRC, each a piece of the window, one
after the other. -/
theorem parsedFrameWasEncoded : Obligations.ParsedFrameWasEncoded := by
  intro w h
  obtain ⟨hf, hpay, e⟩ := parseFrame_of_success h
  obtain ⟨⟨hpre, hcrc⟩, hfit⟩ := id hf
  have hlen := framePayload_length hf
  have hsize := (le16 w 4).isLt
  rw [e]
  refine ⟨?_, hfit⟩
  change createFrame (framePayload w) (le16 w 2) = .ok (w.take (10 + (le16 w 4).toNat))
  have htrailer : bytesLE (frameTrailer w) = slice w (8 + (le16 w 4).toNat) (10 + (le16 w 4).toNat) := by
    rw [frameTrailer, bytesLE_le16 (by omega)]
    congr 1
    omega
  refine createFrame_eq_ok.2 ⟨by omega, ?_⟩
  rw [frameBytes, headerStart_of_preambleOk hpre hlen, hcrc, bytesLE_le16 (by omega), hpay, htrailer,
    framePayload, slice_append_slice w (by omega) (by omega), slice_append_slice w (by omega) (by omega),
    slice_append_slice w (by omega) (by omega), slice_zero]

/-! ## The window and the bytes written in DATA -/

theorem window_getElem {s : State} {c : Command} {j : Nat} (h : j < (window s c).length) :
    (window s c)[j] = engRead s (s.draws + j) (c.start.toNat + j) := by
  simp [window]

/-- Written bytes at START are the first bytes of the window, whatever follows. -/
theorem window_eq_append {s : State} {c : Command} {f : List Byte} (hf : DataHolds s c.start.toNat f)
    (hlen : f.length ≤ c.len.toNat) : window s c = f ++ (window s c).drop f.length := by
  have htake : (window s c).take f.length = f := by
    apply List.ext_getElem
    · rw [List.length_take, window_length, Nat.min_eq_left hlen]
    · intro j _ hj
      have hread : Memory.read s.data (c.start.toNat + j) = some f[j] := (hf j hj).trans (List.getElem?_eq_getElem hj)
      rw [List.getElem_take, window_getElem, engRead_of_written hread]
  conv_lhs => rw [← List.take_append_drop f.length (window s c), htake]

/-- On SUCCESS the payload of the record stands in PAYLOAD_OUT from index 0, and nothing else of it changes. -/
theorem read_parsedState_payloadOut {o : ParseOut} (h : o.res = .success) (c : Command) (s : State) (a : Nat) :
    Memory.read (parsedState o c s).payloadOut a =
      if a < o.payload.length then o.payload[a]? else Memory.read s.payloadOut a := by
  rw [parsedState, finishCommand_payloadOut]
  change Memory.read (writeParseOut o s).payloadOut a = _
  rw [writeParseOut_payloadOut, if_pos h, Memory.read_store]
  simp

/-- Settles O53: the window is the frame and what follows it, so `parse_frame` answers the frame's fields. -/
theorem blockParsesEncodedFrame : Obligations.BlockParsesEncodedFrame := by
  intro s c payload f fc h hc hf hheld hlen
  have hparse := parseOfEncodedFrame payload f ((window s c).drop f.length) fc hf
  rw [← window_eq_append hheld hlen] at hparse
  have hflen := length_of_createFrame hf
  obtain ⟨hplen, _⟩ := createFrame_eq_ok.1 hf
  refine ⟨_, exec_parse_completing h hc, ?_⟩
  rw [hparse]
  refine ⟨rfl, rfl, ?_, ?_, rfl, rfl, rfl, fun k hk => ?_, rfl, rfl, rfl⟩
  · change (BitVec.ofNat 16 payload.length).toNat = payload.length
    rw [BitVec.toNat_ofNat, Nat.mod_eq_of_lt (by omega)]
  · change (BitVec.ofNat 17 f.length).toNat = f.length
    rw [BitVec.toNat_ofNat, Nat.mod_eq_of_lt (by omega)]
  · rw [read_parsedState_payloadOut rfl, if_pos hk]

/-! ## The exits past the header CRC, at the registers -/

/-- Settles O20, by the exit of step 5. -/
theorem parseOfIncompleteFrame : Obligations.ParseOfIncompleteFrame := by
  intro s c h hcompleting hc hlen hh h0 h1 hcrc hshort
  have hlong : 8 ≤ (window s c).length := by rwa [window_length]
  have hheader := headerOk_of_take hlong hh.symm h0 h1 hcrc
  have hlt : (window s c).length < 10 + (le16 (window s c) 4).toNat := by
    rw [window_length, payloadSize_of_take hh.symm]
    omega
  rw [exec_parse_completing hcompleting hc, parseFrame_incomplete hheader hlt, parsedState_of_not_success (by nofun),
    headerOut_of_take hh.symm]
  rfl

/-- Settles O21, by the exit of step 6. -/
theorem parseOfWrongPayloadCrc : Obligations.ParseOfWrongPayloadCrc := by
  intro s c h p rest lo hi hcompleting hc hw hh h0 h1 hcrc hp hpay
  have htake := take_of_layout hw hh
  rw [← payloadSize_of_take htake] at hp
  have hfits := frameFits_of_layout hw hh h0 h1 hcrc hp
  have hpayload := framePayload_of_layout hw hh hp
  have htrailer := frameTrailer_of_layout hw hh hp
  rw [exec_parse_completing hcompleting hc, parseFrame_wrongPayloadCrc hfits (by rwa [hpayload, htrailer]),
    parsedState_of_not_success (by nofun), checkedOut, headerOut_of_take htake, hpayload, htrailer]
  rfl

/-- Settles O22, by the exit of step 7: the new PAYLOAD_OUT is the old one with the payload stored at index 0. -/
theorem parseOfValidFrame : Obligations.ParseOfValidFrame := by
  intro s c h p rest lo hi hcompleting hc hw hh h0 h1 hcrc hp hpay
  have htake := take_of_layout hw hh
  rw [← payloadSize_of_take htake] at hp
  have hsize := (le16 (window s c) 4).isLt
  have hfits := frameFits_of_layout hw hh h0 h1 hcrc hp
  have hpayload := framePayload_of_layout hw hh hp
  have htrailer := frameTrailer_of_layout hw hh hp
  refine ⟨Memory.store s.payloadOut 0 p, ?_, by omega, fun k hk => ?_, fun a ha => ?_⟩
  · rw [exec_parse_completing hcompleting hc, parseFrame_success hfits (by rwa [hpayload, htrailer]), successOut,
      checkedOut, headerOut_of_take htake, hpayload, htrailer, ← hp, show 10 + p.length = 8 + p.length + 2 by omega]
    rfl
  · rw [Memory.read_store, if_pos (by omega), Nat.sub_zero]
  · rw [Memory.read_store, if_neg (by omega)]

/-! ## What PARSE reads (41 R108) -/

theorem slice_take {w : List Byte} {a b n : Nat} (h : b ≤ n) : slice (w.take n) a b = slice w a b := by
  rw [slice, slice, List.drop_take, List.take_take, Nat.min_eq_left (Nat.sub_le_sub_right h a)]

section Agreement

variable {w w' : List Byte} {n : Nat} (ht : w'.take n = w.take n)

include ht

theorem getD_of_agree {i : Nat} (h : i < n) : w'.getD i 0 = w.getD i 0 := by
  rw [← getD_take h, ht, getD_take h]

theorem le16_of_agree {i : Nat} (h : i + 1 < n) : le16 w' i = le16 w i := by
  rw [← le16_take h, ht, le16_take h]

theorem slice_of_agree {a b : Nat} (h : b ≤ n) : slice w' a b = slice w a b := by
  rw [← slice_take h, ht, slice_take h]

theorem preambleOk_of_agree (hlen : w'.length = w.length) (h : 2 ≤ n) (hp : PreambleOk w) : PreambleOk w' := by
  unfold PreambleOk
  rwa [hlen, getD_of_agree ht (show 0 < n by omega), getD_of_agree ht (show 1 < n by omega)]

theorem headerOut_of_agree (h : 8 ≤ n) (r : ParseResult) : headerOut w' r = headerOut w r := by
  rw [headerOut, headerOut, le16_of_agree ht (show 2 + 1 < n by omega), le16_of_agree ht (show 4 + 1 < n by omega),
    le16_of_agree ht (show 6 + 1 < n by omega), slice_of_agree ht (show 6 ≤ n by omega)]

theorem headerOk_of_agree (hlen : w'.length = w.length) (h : 8 ≤ n) (hh : HeaderOk w) : HeaderOk w' := by
  obtain ⟨hp, hcrc⟩ := hh
  refine ⟨preambleOk_of_agree ht hlen (by omega) hp, ?_⟩
  rwa [slice_of_agree ht (show 6 ≤ n by omega), le16_of_agree ht (show 6 + 1 < n by omega)]

theorem framePayload_of_agree (h : 10 + (le16 w 4).toNat ≤ n) : framePayload w' = framePayload w := by
  rw [framePayload, framePayload, le16_of_agree ht (show 4 + 1 < n by omega), slice_of_agree ht (by omega)]

theorem frameTrailer_of_agree (h : 10 + (le16 w 4).toNat ≤ n) : frameTrailer w' = frameTrailer w := by
  rw [frameTrailer, frameTrailer, le16_of_agree ht (show 4 + 1 < n by omega), le16_of_agree ht (by omega)]

theorem frameFits_of_agree (hlen : w'.length = w.length) (h : 10 + (le16 w 4).toNat ≤ n) (hf : FrameFits w) :
    FrameFits w' := by
  obtain ⟨hh, hfit⟩ := hf
  refine ⟨headerOk_of_agree ht hlen (by omega) hh, ?_⟩
  rwa [hlen, le16_of_agree ht (show 4 + 1 < n by omega)]

end Agreement

theorem bytesRead_of_preambleOk {w : List Byte} (h : PreambleOk w) :
    bytesRead w = if (parseFrame w).res = .invalidHeaderCrc ∨ (parseFrame w).res = .insufficientData then 8
      else 10 + (le16 w 4).toNat := by
  obtain ⟨hlen, h0, h1⟩ := h
  rw [bytesRead, if_neg (Nat.not_lt.2 hlen), if_neg (not_or.2 ⟨not_not_intro h0, not_not_intro h1⟩)]

/-- Two windows of one length that agree on the bytes read give the same record, by the exit the first one takes. -/
theorem parseFrame_of_agree {w w' : List Byte} (hlen : w'.length = w.length)
    (ht : w'.take (bytesRead w) = w.take (bytesRead w)) : parseFrame w' = parseFrame w := by
  rcases parseFrame_cases w with
    ⟨hshort, e⟩ | ⟨hlong, hne, e⟩ | ⟨hp, hcrc, e⟩ | ⟨hh, hlt, e⟩ | ⟨hf, hpay, e⟩ | ⟨hf, hpay, e⟩
  · rw [e, parseFrame_short (hlen.trans_lt hshort)]
  · have hn : bytesRead w = 2 := by rw [bytesRead, if_neg (Nat.not_lt.2 hlong), if_pos hne]
    rw [hn] at ht
    rw [e, parseFrame_preamble (hlong.trans_eq hlen.symm)]
    rwa [getD_of_agree ht (by decide), getD_of_agree ht (by decide)]
  · have hn : bytesRead w = 8 := by
      rw [bytesRead_of_preambleOk hp, e]
      rfl
    rw [hn] at ht
    rw [e, parseFrame_wrongHeaderCrc (preambleOk_of_agree ht hlen (by decide) hp),
      headerOut_of_agree ht (Nat.le_refl 8)]
    rwa [slice_of_agree ht (by decide), le16_of_agree ht (by decide)]
  · have hn : bytesRead w = 8 := by
      rw [bytesRead_of_preambleOk hh.1, e]
      rfl
    rw [hn] at ht
    rw [e, parseFrame_incomplete (headerOk_of_agree ht hlen (Nat.le_refl 8) hh), headerOut_of_agree ht (Nat.le_refl 8)]
    rwa [hlen, le16_of_agree ht (by decide)]
  · have hn : bytesRead w = 10 + (le16 w 4).toNat := by
      rw [bytesRead_of_preambleOk hf.1.1, e]
      rfl
    rw [hn] at ht
    rw [e, parseFrame_wrongPayloadCrc (frameFits_of_agree ht hlen (Nat.le_refl _) hf), checkedOut, checkedOut,
      framePayload_of_agree ht (Nat.le_refl _), frameTrailer_of_agree ht (Nat.le_refl _),
      headerOut_of_agree ht (by omega)]
    rwa [framePayload_of_agree ht (Nat.le_refl _), frameTrailer_of_agree ht (Nat.le_refl _)]
  · have hn : bytesRead w = 10 + (le16 w 4).toNat := by
      rw [bytesRead_of_preambleOk hf.1.1, e]
      rfl
    rw [hn] at ht
    rw [e, parseFrame_success (frameFits_of_agree ht hlen (Nat.le_refl _) hf), successOut, successOut, checkedOut,
      checkedOut, framePayload_of_agree ht (Nat.le_refl _), frameTrailer_of_agree ht (Nat.le_refl _),
      headerOut_of_agree ht (by omega), le16_of_agree ht (show 4 + 1 < _ by omega)]
    rwa [framePayload_of_agree ht (Nat.le_refl _), frameTrailer_of_agree ht (Nat.le_refl _)]

/-- The window keeps its first `n` bytes if DATA keeps the bytes under them, written or not. -/
theorem window_take_of_agree {s : State} {c : Command} {m : Memory} {n : Nat}
    (h : ∀ j < n, Memory.read m (c.start.toNat + j) = Memory.read s.data (c.start.toNat + j)) :
    (window { s with data := m } c).take n = (window s c).take n := by
  apply List.ext_getElem
  · simp
  · intro j h1 _
    rw [List.length_take] at h1
    rw [List.getElem_take, List.getElem_take, window_getElem, window_getElem]
    unfold engRead
    rw [h j (by omega)]

/-- Settles O23: the two windows agree on the bytes read, so the records are the same. -/
theorem parseReadsOnlyItsFrame : Obligations.ParseReadsOnlyItsFrame := by
  intro s t c m h hc hagree hexec
  have hlen : (window { s with data := m } c).length = (window s c).length := by rw [window_length, window_length]
  have hparse := parseFrame_of_agree hlen (window_take_of_agree hagree)
  obtain rfl := Host.Outcome.next.inj ((exec_parse_completing h hc).symm.trans hexec)
  have hcompleting : Completing { s with data := m } c := h
  rw [exec_parse_completing hcompleting hc, hparse]
  rfl

end Sys2Proof.Machine
end

section
/-! Proofs of the statements about one step of the whole machine. Every step that goes on is one of twelve moves, each
with what allowed it; a statement about all steps is then a case split over the moves. -/

namespace Sys2Proof.Machine

open Sys2Proof.Safety

/-! ## The moves of the machine -/

/-- The moves: how a step goes from `s` to the next state, and when (00 R14; 60 R127 to R129; 70 R141, R143). -/
inductive Move (s : State) : State → Prop
  /-- The engine completes the pending command. -/
  | complete {c : Command} (he : EngineMoves s) (hc : Completing s c) : Move s (completed c (taken s))
  /-- The engine ends table initialisation. -/
  | endInit (he : EngineMoves s) (hb : s.busy = true) (hp : s.pending = some .init) : Move s (finishInit (taken s))
  /-- The engine has nothing to do. -/
  | idle (he : EngineMoves s) (h : s.busy = false ∨ s.pending = none) : Move s (taken s)
  /-- The host reads. -/
  | read (v : Word) (hr : ∃ addr n es, s.events = .read addr n :: es) : Move s (answerRead v (taken s))
  /-- The host writes while BUSY = 1. -/
  | busyWrite (hw : HostWriteNext s) (hb : s.busy = true) : Move s (raiseCmdError .busyWrite (taken s))
  /-- The host writes a word to CMD that stands for no command. -/
  | illegalCmd {v : Word} {e : DecodeError} (hw : WriteNext s 0x00C v) (hb : s.busy = false)
      (hd : decode v = .error e) : Move s (raiseCmdError .illegalCmd (taken s))
  /-- The host issues a command whose window is out of range. -/
  | windowRange {v : Word} {i : Instr} (hw : WriteNext s 0x00C v) (hb : s.busy = false) (hd : decode v = .ok i)
      (hi : usesWindow i = true) (hr : windowInRange s = false) : Move s (raiseCmdError .windowRange (taken s))
  /-- The host issues a command, and it is accepted. -/
  | accept {v : Word} {i : Instr} (hw : WriteNext s 0x00C v) (hb : s.busy = false) (hd : decode v = .ok i)
      (hr : usesWindow i = true → windowInRange s = true) : Move s (acceptCommand i (taken s))
  /-- The host writes a register other than CMD. -/
  | writeReg {r : Reg} {v : Word} (hw : WriteNext s (regOffset r) v) (hb : s.busy = false) (hr : r ≠ .cmd) :
      Move s (writeReg r v (taken s))
  /-- The host writes DATA. -/
  | writeData (i n : Nat) (v : Word) (hw : HostWriteNext s) (hb : s.busy = false) : Move s (writeData i n v (taken s))
  /-- The host writes where nothing is stored. -/
  | ignoredWrite (hw : HostWriteNext s) (hb : s.busy = false) : Move s (taken s)
  /-- `rst`. -/
  | reset (hr : ResetNext s) : Move s (hardReset (taken s))

/-- A command written to the idle block is accepted or raises WINDOW_RANGE. -/
theorem move_of_issue {s t : State} {v : Word} {i : Instr} (hw : WriteNext s 0x00C v) (hb : s.busy = false)
    (hd : decode v = .ok i) (h : exec i (taken s) = .next t) : Move s t := by
  have hidle : (taken s).busy = false := hb
  obtain rfl := Host.Outcome.next.inj ((exec_idle hidle i).symm.trans h)
  rcases startCommand_cases i (taken s) with ⟨hi, hr, e⟩ | ⟨hr, e⟩ <;> rw [e]
  · exact .windowRange hw hb hd hi hr
  · exact .accept hw hb hd hr

/-- Every step that goes on is a move. -/
theorem move_of_step {s t : State} (h : step s = .next t) : Move s t := by
  rcases step_cases h with ⟨he, ⟨c, hc, hx⟩ | ⟨hb, hp, rfl⟩ | ⟨hi, rfl⟩⟩ | ⟨off, n, ⟨es, hev⟩, rfl⟩ |
    ⟨off, n, v, ⟨es, hev⟩, _, hw⟩ | ⟨hr, rfl⟩
  · have hc' : Completing (taken s) c := hc
    obtain rfl := Host.Outcome.next.inj ((exec_completing hc').symm.trans hx)
    exact .complete he hc
  · exact .endInit he hb hp
  · exact .idle he hi
  · exact .read _ ⟨_, _, es, hev⟩
  · have hwrite : HostWriteNext s := ⟨_, _, _, es, hev⟩
    rcases hw with ⟨hb, rfl⟩ | ⟨hb, ⟨rfl, rfl, e, hd, rfl⟩ | ⟨rfl, rfl, i, hd, hx⟩ | ⟨r, hr, rfl, rfl, rfl⟩ |
      ⟨i, _, _, rfl⟩ | ⟨_, rfl⟩⟩
    · exact .busyWrite hwrite hb
    · exact .illegalCmd ⟨es, hev⟩ hb hd
    · exact move_of_issue ⟨es, hev⟩ hb hd hx
    · exact .writeReg ⟨es, hev⟩ hb hr
    · exact .writeData i n v hwrite hb
    · exact .ignoredWrite hwrite hb
  · exact .reset hr

/-! ## What a register write leaves -/

section WriteReg

variable (r : Reg) (v : Word) (s : State)

@[simp] theorem writeReg_cfg : (writeReg r v s).cfg = s.cfg := by cases r <;> rfl

@[simp] theorem writeReg_busy : (writeReg r v s).busy = s.busy := by cases r <;> rfl

@[simp] theorem writeReg_crc : (writeReg r v s).crc = s.crc := by cases r <;> rfl

@[simp] theorem writeReg_pending : (writeReg r v s).pending = s.pending := by cases r <;> rfl

end WriteReg

/-! ## The invariant, move by move -/

theorem pendingSampled_of_none {s : State} (h : s.pending = none) : pendingSampled s = true := by
  rw [pendingSampled, h]

theorem pending_eq_none {s : State} (h : BusyIsPending s) (hb : s.busy = false) : s.pending = none := by
  rw [BusyIsPending, hb] at h
  exact Option.not_isSome_iff_eq_none.1 (by rw [← h]; decide)

theorem inv_resetWith {cfg : Config} (h : cfg.Legal) : Inv (State.resetWith cfg) := by
  have hbusy : BusyIsPending (State.resetWith cfg) := by
    change decide (0 < cfg.tableInitLatency) = (if 0 < cfg.tableInitLatency then some Pending.init else none).isSome
    split <;> simp [*]
  have hsampled : pendingSampled (State.resetWith cfg) = true := by
    unfold pendingSampled State.resetWith
    split
    next c hc => split at hc <;> cases hc
    all_goals rfl
  exact ⟨h, hbusy, fun _ => rfl, hsampled, ⟨nofun, fun he => absurd rfl he⟩, ⟨.nil, nofun, .nil, nofun⟩, rfl,
    ⟨fun _ => ⟨rfl, rfl, rfl, rfl⟩, by simp [State.resetWith], by simp [State.resetWith], fun _ _ => ⟨rfl, rfl⟩⟩,
    nofun⟩

theorem inv_raiseCmdError {s : State} (h : Inv s) {code : ErrCode} (hcode : code ≠ .noError) :
    Inv (raiseCmdError code s) := by
  obtain ⟨hcfg, hbusy, hdone, hsampled, _, hbuf, hresult⟩ := h
  exact ⟨hcfg, hbusy, hdone, hsampled, ⟨fun _ => hcode, fun _ => rfl⟩, hbuf, hresult⟩

/-- Acceptance samples the live registers, with the window checked. -/
theorem inv_acceptCommand {s : State} (h : Inv s) {i : Instr} (hr : usesWindow i = true → windowInRange s = true) :
    Inv (acceptCommand i s) := by
  obtain ⟨hcfg, _, _, _, herr, hbuf, hresult⟩ := h
  have hsampled : pendingSampled (acceptCommand i s) = true := by
    change (sampleOperands i s == sampleOperands i s && (!usesWindow i || windowInRange s)) = true
    cases hi : usesWindow i
    · simp
    · simp [hr hi]
  exact ⟨hcfg, rfl, fun _ => rfl, hsampled, herr, hbuf, hresult⟩

theorem inv_finishInit {s : State} (h : Inv s) : Inv (finishInit s) := by
  obtain ⟨hcfg, _, _, _, hrest⟩ := h
  exact ⟨hcfg, rfl, nofun, rfl, hrest⟩

/-- A register write to the idle block: only STATUS touches what the invariant speaks of, and it clears ERR with
ERRCODE. -/
theorem inv_writeReg {s : State} (h : Inv s) (hb : s.busy = false) (r : Reg) (v : Word) : Inv (writeReg r v s) := by
  obtain ⟨hcfg, hbusy, hdone, _, herr, hrest⟩ := h
  have hsampled : pendingSampled (writeReg r v s) = true :=
    pendingSampled_of_none (by rw [writeReg_pending, pending_eq_none hbusy hb])
  cases r with
  | status =>
    have herr' : ErrcodeIsSet (writeStatus v s) := by
      rw [ErrcodeIsSet, writeStatus_err, writeStatus_errcode]
      cases v.getLsbD 2 <;> simp [herr]
    exact ⟨hcfg, hbusy, fun hb' => absurd (hb.symm.trans hb') nofun, hsampled, herr', hrest⟩
  | id | ctrl | cmd | start | len | din | crc | result | frameCounter | payloadSize | hdrCrc | payCrc | consumed
  | bufSize => exact ⟨hcfg, hbusy, hdone, hsampled, herr, hrest⟩

theorem inv_writeData {s : State} (h : Inv s) (hb : s.busy = false) (i n : Nat) (v : Word) :
    Inv (writeData i n v s) := by
  obtain ⟨hcfg, hbusy, hdone, _, herr, ⟨hwf, hbelow, hout⟩, hresult⟩ := h
  exact ⟨hcfg, hbusy, hdone, pendingSampled_of_none (pending_eq_none hbusy hb), herr,
    ⟨Memory.wf_store hwf _ _, writeData_below hbelow i n v, hout⟩, hresult⟩

/-! ## The record of `parse_frame` meets the table of 41 R106 -/

/-- The clauses of the invariant on the results, as clauses on the record they are written from. -/
structure RecordOk (o : ParseOut) : Prop where
  consumed : o.consumed = if o.res = .success then 10 + o.ps.toNat else 0
  payload : o.res = .success → o.payload.length = o.ps.toNat
  blank : o.res = .noResult ∨ o.res = .invalidPreamble → o.fc = 0 ∧ o.ps = 0 ∧ o.hrx = 0 ∧ o.hcalc = 0
  headerCrc : o.res = .invalidHeaderCrc ↔ o.hcalc ≠ o.hrx
  payloadCrc : o.res = .invalidPayloadCrc ↔ o.pcalc ≠ o.prx
  unreached : o.res ≠ .success → o.res ≠ .invalidPayloadCrc → o.prx = 0 ∧ o.pcalc = 0

theorem recordOk_parseFrame (w : List Byte) : RecordOk (parseFrame w) := by
  rcases parseFrame_cases w with
    ⟨_, e⟩ | ⟨_, _, e⟩ | ⟨_, hcrc, e⟩ | ⟨⟨_, hcrc⟩, _, e⟩ | ⟨⟨⟨_, hcrc⟩, _⟩, hpay, e⟩ | ⟨hf, hpay, e⟩ <;> rw [e]
  · constructor <;> simp [ParseOut.blank]
  · constructor <;> simp [ParseOut.blank]
  · constructor <;> simp [headerOut, ParseOut.blank, hcrc]
  · constructor <;> simp [headerOut, ParseOut.blank, hcrc]
  · constructor <;> simp [checkedOut, headerOut, ParseOut.blank, hcrc, hpay]
  · obtain ⟨⟨_, hcrc⟩, _⟩ := id hf
    have hlen := framePayload_length hf
    constructor <;> simp [successOut, checkedOut, headerOut, ParseOut.blank, hcrc, hpay, hlen]

/-- A completing PARSE leaves the results of its record, and a payload that fits PAYLOAD_OUT. -/
theorem inv_parsedState {s : State} (h : Inv s) {o : ParseOut} (ho : RecordOk o) (c : Command) :
    Inv (parsedState o c s) := by
  obtain ⟨hcfg, _, _, _, herr, ⟨hwf, hbelow, hwfOut, hbelowOut⟩, _⟩ := h
  have hsize := o.ps.isLt
  have hbuf : BuffersOk (parsedState o c s) := by
    refine ⟨hwf, hbelow, ?_⟩
    change Memory.Wf (if _ then _ else _) ∧ Memory.Below (if _ then _ else _) _
    split
    next hs =>
      have hlen := ho.payload hs
      exact ⟨Memory.wf_store hwfOut _ _, Memory.below_store hbelowOut (.inr (by unfold maxPayloadSize; omega))⟩
    next => exact ⟨hwfOut, hbelowOut⟩
  have hconsumed : ConsumedOk (parsedState o c s) := by
    change (BitVec.ofNat 17 o.consumed).toNat = if o.res = .success then 10 + o.ps.toNat else 0
    have hlt : o.consumed < 2 ^ 17 := by
      rw [ho.consumed]
      split <;> omega
    rw [BitVec.toNat_ofNat, Nat.mod_eq_of_lt hlt, ho.consumed]
  have hwritten : PayloadWritten (parsedState o c s) := by
    intro hs i hi
    have hlt : i < o.payload.length := (ho.payload hs).symm ▸ hi
    rw [read_parsedState_payloadOut hs, if_pos hlt, List.getElem?_eq_getElem hlt]
    rfl
  exact ⟨hcfg, rfl, nofun, rfl, herr, hbuf, hconsumed, ⟨ho.blank, ho.headerCrc, ho.payloadCrc, ho.unreached⟩, hwritten⟩

theorem inv_completed {s : State} (h : Inv s) (c : Command) : Inv (completed c s) := by
  by_cases hc : c.op = .parse
  · rw [completed_parse hc]
    exact inv_parsedState h (recordOk_parseFrame _) c
  · obtain ⟨crc, draws, e⟩ := completed_of_ne_parse hc s
    obtain ⟨hcfg, _, _, _, hrest⟩ := h
    rw [e]
    exact ⟨hcfg, rfl, nofun, rfl, hrest⟩

theorem inv_move {s t : State} (h : Inv s) (hm : Move s t) : Inv t := by
  have hs : Inv (taken s) := h
  cases hm with
  | complete => exact inv_completed hs _
  | endInit => exact inv_finishInit hs
  | idle | read | ignoredWrite => exact hs
  | busyWrite | illegalCmd | windowRange => exact inv_raiseCmdError hs (by decide)
  | accept _ _ _ hr => exact inv_acceptCommand hs hr
  | writeReg _ hb => exact inv_writeReg hs hb _ _
  | writeData i n v _ hb => exact inv_writeData hs hb i n v
  | reset => exact inv_resetWith hs.1

/-- Settles O39: each of the twelve moves keeps the invariant. -/
theorem stepKeepsInvariant : Obligations.StepKeepsInvariant := by
  intro s t h hstep
  exact inv_move h (move_of_step hstep)

/-- Settles O40: reset meets the invariant for all legal parameters, those of `State.reset` among them. -/
theorem resetMeetsInvariant : Obligations.ResetMeetsInvariant := by
  refine ⟨fun cfg => inv_resetWith, inv_resetWith (by decide), fun es => ?_⟩
  rw [step_rst]
  rfl

/-! ## What no step, or only one kind of step, changes -/

/-- Settles O41: no move changes a parameter. -/
theorem parametersNeverChange : Obligations.ParametersNeverChange := by
  intro s t hstep
  cases move_of_step hstep with
  | complete => exact completed_cfg _ _
  | writeReg => exact writeReg_cfg _ _ _
  | endInit | idle | read | busyWrite | illegalCmd | windowRange | accept | writeData | ignoredWrite | reset => rfl

/-- What a completion makes of the accumulator. -/
theorem completed_crc_cases (c : Command) (s : State) :
    (completed c s).crc = s.crc ∨ (c.op = .crcInit ∧ (completed c s).crc = 0xFFFF) ∨
      (c.op = .crcByte ∧ (completed c s).crc = crcUpdate s.crc c.din) ∨
      (c.op = .crcSpan ∧ (completed c s).crc = crc16 (window s c)) := by
  unfold completed
  cases c.op with
  | nop | parse => exact .inl rfl
  | crcInit => exact .inr (.inl ⟨rfl, rfl⟩)
  | crcByte => exact .inr (.inr (.inl ⟨rfl, rfl⟩))
  | crcSpan => exact .inr (.inr (.inr ⟨rfl, rfl⟩))

/-- Settles O42: of the moves, only a completion and `rst` touch the accumulator. -/
theorem onlyCrcCommandsWriteCrc : Obligations.OnlyCrcCommandsWriteCrc := by
  intro s t hstep
  cases move_of_step hstep with
  | @complete c he hc => exact (completed_crc_cases c (taken s)).imp_right fun h => .inr ⟨he, c, hc, h⟩
  | reset hr => exact .inr (.inl ⟨hr, rfl⟩)
  | writeReg => exact .inl (writeReg_crc _ _ _)
  | endInit | idle | read | busyWrite | illegalCmd | windowRange | accept | writeData | ignoredWrite => exact .inl rfl

/-- Settles O43: of the moves, only the completion of a PARSE and `rst` touch the results. -/
theorem onlyParseWritesResults : Obligations.OnlyParseWritesResults := by
  intro s t hstep hreset hparse
  cases move_of_step hstep with
  | @complete c he hc =>
    have hop : c.op ≠ .parse := fun hop => hparse ⟨he, c, hc, hop⟩
    obtain ⟨crc, draws, e⟩ := completed_of_ne_parse hop (taken s)
    rw [e]
    exact ⟨rfl, rfl, rfl, rfl, rfl, rfl, rfl, rfl, rfl⟩
  | reset hr => exact absurd hr hreset
  | @writeReg r => cases r <;> exact ⟨rfl, rfl, rfl, rfl, rfl, rfl, rfl, rfl, rfl⟩
  | endInit | idle | read | busyWrite | illegalCmd | windowRange | accept | writeData | ignoredWrite =>
    exact ⟨rfl, rfl, rfl, rfl, rfl, rfl, rfl, rfl, rfl⟩

/-- Settles O44: of the moves, only a host write to the idle block and `rst` touch the operands and DATA. -/
theorem onlyHostWritesOperandsAndData : Obligations.OnlyHostWritesOperandsAndData := by
  intro s t hstep hreset hwrite
  cases move_of_step hstep with
  | complete => simp [taken]
  | reset hr => exact absurd hr hreset
  | @writeReg r v hw hb =>
    obtain ⟨es, hev⟩ := hw
    exact absurd ⟨⟨_, _, _, es, hev⟩, hb⟩ hwrite
  | writeData _ _ _ hw hb => exact absurd ⟨hw, hb⟩ hwrite
  | endInit | idle | read | busyWrite | illegalCmd | windowRange | accept | ignoredWrite =>
    exact ⟨rfl, rfl, rfl, rfl, fun _ => rfl⟩

/-! ## The flags -/

theorem taken_eq_self {s : State} (h : s.events = []) : taken s = s := by
  rw [taken, h, List.tail_nil, ← h]

theorem taken_eq {s : State} {e : Event} {es : List Event} (h : s.events = e :: es) :
    taken s = { s with events := es } := by
  rw [taken, h, List.tail_cons]

/-- When the engine moves, the step is its turn. -/
theorem nextAction_engine {s : State} (he : EngineMoves s) : nextAction s = engineTurn (taken s) := by
  rcases he with hev | ⟨es, hev⟩
  · rw [nextAction, hev, taken_eq_self hev]
  · rw [nextAction, hev, taken_eq hev]

theorem step_engine_completing {s : State} {c : Command} (he : EngineMoves s) (hc : Completing s c) :
    step s = .next (completed c (taken s)) := by
  have hc' : Completing (taken s) c := hc
  have hturn : engineTurn (taken s) = .run c.op (taken s) := by simp [engineTurn, hc']
  rw [step, nextAction_engine he, hturn]
  exact exec_completing hc'

theorem step_engine_init {s : State} (he : EngineMoves s) (hb : s.busy = true) (hp : s.pending = some .init) :
    step s = .next (finishInit (taken s)) := by
  have hturn : engineTurn (taken s) = .done (finishInit (taken s)) := by simp [engineTurn, taken, hb, hp]
  rw [step, nextAction_engine he, hturn]

/-- What a register write does to DONE: only bit 1 of a STATUS write clears it. -/
theorem writeReg_done_cases (r : Reg) (v : Word) (s : State) :
    (writeReg r v s).done = s.done ∨ (r = .status ∧ v.getLsbD 1 = true ∧ (writeReg r v s).done = false) := by
  cases r with
  | status =>
    rw [writeReg, writeStatus_done]
    cases v.getLsbD 1 with
    | false => exact .inl (Bool.and_true _)
    | true => exact .inr ⟨rfl, rfl, Bool.and_false _⟩
  | id | ctrl | cmd | start | len | din | crc | result | frameCounter | payloadSize | hdrCrc | payCrc | consumed
  | bufSize => exact .inl rfl

theorem busy_rises {s t : State} (hm : Move s t) (hs : s.busy = false) (ht : t.busy = true) :
    ResetNext s ∨
      ∃ v i, WriteNext s 0x00C v ∧ decode v = .ok i ∧ t.pending = some (.cmd (sampleOperands i s)) ∧
        t.done = false := by
  cases hm with
  | @accept v i hw _ hd => exact .inr ⟨v, i, hw, hd, rfl, rfl⟩
  | reset hr => exact .inl hr
  | complete => exact absurd ht (by simp)
  | endInit => exact absurd ht (by simp)
  | writeReg => exact absurd ht (by simp [taken, hs])
  | idle | read | busyWrite | illegalCmd | windowRange | writeData | ignoredWrite =>
    exact absurd (hs.symm.trans ht) nofun

theorem busy_falls {s t : State} (hm : Move s t) (hs : s.busy = true) (ht : t.busy = false) :
    ResetNext s ∨ EngineMoves s := by
  cases hm with
  | complete he => exact .inr he
  | endInit he => exact .inr he
  | reset hr => exact .inl hr
  | accept => exact absurd ht nofun
  | writeReg => exact absurd ht (by simp [taken, hs])
  | idle | read | busyWrite | illegalCmd | windowRange | writeData | ignoredWrite =>
    exact absurd (hs.symm.trans ht) nofun

theorem done_rises {s t : State} (hm : Move s t) (hs : s.done = false) (ht : t.done = true) :
    EngineMoves s ∧ ∃ c, Completing s c := by
  cases hm with
  | complete he hc => exact ⟨he, _, hc⟩
  | accept => exact absurd ht nofun
  | reset => exact absurd ht nofun
  | @writeReg r v =>
    rcases writeReg_done_cases r v (taken s) with e | ⟨_, _, e⟩
    · exact absurd (hs.symm.trans (e.symm.trans ht)) nofun
    · exact absurd (e.symm.trans ht) nofun
  | endInit | idle | read | busyWrite | illegalCmd | windowRange | writeData | ignoredWrite =>
    exact absurd (hs.symm.trans ht) nofun

theorem done_falls {s t : State} (hm : Move s t) (hs : s.done = true) (ht : t.done = false) :
    ResetNext s ∨ (s.busy = false ∧ t.busy = true) ∨
      (s.busy = false ∧ ∃ v, WriteNext s 0x008 v ∧ v.getLsbD 1 = true) := by
  cases hm with
  | accept _ hb => exact .inr (.inl ⟨hb, rfl⟩)
  | reset hr => exact .inl hr
  | complete => exact absurd ht (by simp)
  | @writeReg r v hw hb =>
    rcases writeReg_done_cases r v (taken s) with e | ⟨rfl, hbit, _⟩
    · exact absurd (hs.symm.trans (e.symm.trans ht)) nofun
    · exact .inr (.inr ⟨hb, v, hw, hbit⟩)
  | endInit | idle | read | busyWrite | illegalCmd | windowRange | writeData | ignoredWrite =>
    exact absurd (hs.symm.trans ht) nofun

/-- Settles O45: BUSY and DONE, each up and down, and the completion that always sets the one and clears the other. -/
theorem busyAndDoneTransitions : Obligations.BusyAndDoneTransitions := by
  intro s t hstep
  have hm := move_of_step hstep
  refine ⟨busy_rises hm, busy_falls hm, done_rises hm, fun c he hc => ?_, done_falls hm⟩
  obtain rfl := Host.Outcome.next.inj ((step_engine_completing he hc).symm.trans hstep)
  exact ⟨completed_done c _, completed_busy c _⟩

/-- What a register write does to ERR and ERRCODE: only bit 2 of a STATUS write clears them. -/
theorem writeReg_err_cases (r : Reg) (v : Word) (s : State) :
    ((writeReg r v s).err = s.err ∧ (writeReg r v s).errcode = s.errcode) ∨
      (r = .status ∧ v.getLsbD 2 = true ∧ (writeReg r v s).err = false ∧ (writeReg r v s).errcode = .noError) := by
  cases r with
  | status =>
    rw [writeReg, writeStatus_err, writeStatus_errcode]
    cases v.getLsbD 2 with
    | false => exact .inl ⟨Bool.and_true _, rfl⟩
    | true => exact .inr ⟨rfl, rfl, Bool.and_false _, rfl⟩
  | id | ctrl | cmd | start | len | din | crc | result | frameCounter | payloadSize | hdrCrc | payCrc | consumed
  | bufSize => exact .inl ⟨rfl, rfl⟩

/-- Settles O46: three moves record an error, and a STATUS write clears it. -/
theorem errorTransitions : Obligations.ErrorTransitions := by
  intro s t hstep hreset
  cases move_of_step hstep with
  | complete => exact .inl ⟨completed_err _ _, completed_errcode _ _⟩
  | busyWrite hw hb => exact .inr (.inl ⟨rfl, .inl ⟨rfl, hb, hw⟩⟩)
  | @illegalCmd v e hw hb hd => exact .inr (.inl ⟨rfl, .inr (.inl ⟨v, e, rfl, hb, hw, hd⟩)⟩)
  | @windowRange v i hw hb hd hi hr =>
    exact .inr (.inl ⟨rfl, .inr (.inr
      ⟨v, i, rfl, hb, hw, hd, (usesWindow_iff i).1 hi, (windowInRange_eq_false_iff s).1 hr⟩)⟩)
  | @writeReg r v hw hb =>
    rcases writeReg_err_cases r v (taken s) with e | ⟨rfl, hbit, herr, hcode⟩
    · exact .inl e
    · exact .inr (.inr ⟨herr, hcode, hb, v, hw, hbit⟩)
  | reset hr => exact absurd hr hreset
  | endInit | idle | read | accept | writeData | ignoredWrite => exact .inl ⟨rfl, rfl⟩

/-! ## The interrupt output -/

theorem irq_iff (s : State) : irq s = true ↔ s.ctrlIe = true ∧ (s.done = true ∨ s.err = true) := by
  rw [irq, Bool.and_eq_true, Bool.or_eq_true]

/-- What a register write does to CTRL.IE: only bit 0 of a CTRL write sets it. -/
theorem writeReg_ctrlIe_cases (r : Reg) (v : Word) (s : State) :
    (writeReg r v s).ctrlIe = s.ctrlIe ∨ (r = .ctrl ∧ (writeReg r v s).ctrlIe = v.getLsbD 0) := by
  cases r with
  | ctrl => exact .inr ⟨rfl, rfl⟩
  | id | status | cmd | start | len | din | crc | result | frameCounter | payloadSize | hdrCrc | payCrc | consumed
  | bufSize => exact .inl rfl

/-- A register write sets no source of `irq`. -/
theorem source_of_writeReg {r : Reg} {v : Word} {s : State}
    (h : (writeReg r v s).done = true ∨ (writeReg r v s).err = true) : s.done = true ∨ s.err = true := by
  refine h.imp (fun hd => ?_) fun he => ?_
  · rcases writeReg_done_cases r v s with e | ⟨_, _, e⟩
    · exact e.symm.trans hd
    · exact absurd (e.symm.trans hd) nofun
  · rcases writeReg_err_cases r v s with ⟨e, _⟩ | ⟨_, _, e, _⟩
    · exact e.symm.trans he
    · exact absurd (e.symm.trans he) nofun

/-- With IE set, an `irq` that is 0 has no source. -/
theorem err_of_irq_false {s : State} (hie : s.ctrlIe = true) (h : irq s = false) : s.err = false := by
  cases he : s.err with
  | false => rfl
  | true => exact absurd ((irq_iff s).2 ⟨hie, .inr he⟩) (by rw [h]; decide)

/-- Settles O47: a completion sets DONE, an error sets ERR, a CTRL write sets IE, and no other move sets one of them. -/
theorem interruptSources : Obligations.InterruptSources := by
  refine ⟨irq_iff, fun s t hstep hs ht => ?_⟩
  obtain ⟨hie, hsource⟩ := (irq_iff t).1 ht
  have hnot : ¬ (s.ctrlIe = true ∧ (s.done = true ∨ s.err = true)) := fun h =>
    absurd ((irq_iff s).2 h) (by rw [hs]; decide)
  cases move_of_step hstep with
  | complete he hc => exact .inl ⟨he, _, hc⟩
  | busyWrite hw => exact .inr (.inl ⟨err_of_irq_false hie hs, rfl, hw⟩)
  | illegalCmd hw =>
    obtain ⟨es, hev⟩ := hw
    exact .inr (.inl ⟨err_of_irq_false hie hs, rfl, _, _, _, es, hev⟩)
  | windowRange hw =>
    obtain ⟨es, hev⟩ := hw
    exact .inr (.inl ⟨err_of_irq_false hie hs, rfl, _, _, _, es, hev⟩)
  | accept => exact absurd ⟨hie, .inr (hsource.resolve_left nofun)⟩ hnot
  | reset => exact absurd hie nofun
  | @writeReg r v hw =>
    have hsource' := source_of_writeReg hsource
    rcases writeReg_ctrlIe_cases r v (taken s) with e | ⟨rfl, e⟩
    · exact absurd ⟨e.symm.trans hie, hsource'⟩ hnot
    · have hie' : s.ctrlIe = false := by
        cases h : s.ctrlIe with
        | false => rfl
        | true => exact absurd ⟨h, hsource'⟩ hnot
      exact .inr (.inr ⟨hie', v, hw, e.symm.trans hie⟩)
  | endInit | idle | read | writeData | ignoredWrite => exact absurd ⟨hie, hsource⟩ hnot

/-! ## Pending work ends (60 R129, 70 R153) -/

/-- What is owed once the pending `p` has ended in `t`. -/
def Ended (p : Pending) (t : State) : Prop := t.busy = false ∧ ∀ c, p = .cmd c → t.done = true

theorem engine_ends_pending {s : State} {p : Pending} (he : EngineMoves s) (hb : s.busy = true)
    (hp : s.pending = some p) : ∃ t, step s = .next t ∧ Ended p t := by
  cases p with
  | init => exact ⟨_, step_engine_init he hb hp, rfl, nofun⟩
  | cmd c =>
    exact ⟨_, step_engine_completing he ⟨hb, hp⟩, completed_busy c _, fun _ _ => completed_done c _⟩

theorem allowedTransaction_cases {cfg : Config} {e : Event} (h : AllowedTransaction cfg e) :
    e = .engine ∨ ∃ off n, AccessInTable off n ∧
      (e = .read (cfg.base + off) n ∨ ∃ v, e = .write (cfg.base + off) n v) := by
  cases e with
  | read addr n =>
    obtain ⟨off, rfl, ha⟩ := h
    exact .inr ⟨off, n, ha, .inl rfl⟩
  | write addr n v =>
    obtain ⟨off, rfl, ha⟩ := h
    exact .inr ⟨off, n, ha, .inr ⟨v, rfl⟩⟩
  | engine => exact .inl rfl
  | rst => exact h.elim

/-- While BUSY = 1 an allowed transaction leaves the pending work and the rest of the schedule. -/
theorem busy_transaction {s : State} {e : Event} {es : List Event} {off n : Nat} (hev : s.events = e :: es)
    (hb : s.busy = true) (ha : AccessInTable off n)
    (he : e = .read (s.cfg.base + off) n ∨ ∃ v, e = .write (s.cfg.base + off) n v) :
    ∃ t, step s = .next t ∧ t.busy = true ∧ t.pending = s.pending ∧ t.cfg = s.cfg ∧ t.events = es := by
  have hs : s = { s with events := e :: es } := by rw [← hev]
  rw [hs]
  rcases he with rfl | ⟨v, rfl⟩
  · exact ⟨_, reads_readValue s ha es, hb, rfl, rfl, rfl⟩
  · exact ⟨_, writes_busy ha hb v es, hb, rfl, rfl, rfl⟩

theorem run_succ {s t u : core.State} {k : Nat} (h : core.step s = .next t) (hk : core.run k t = .next u) :
    core.run (k + 1) s = .next u := by
  rw [Host.Core.run, h]
  exact hk

/-- Pending work ends at the engine's turn, which comes at the latest when the schedule is used up. -/
theorem pending_ends (es : List Event) : ∀ {s : State} {p : Pending}, s.events = es → s.busy = true →
    s.pending = some p → (∀ e ∈ es, AllowedTransaction s.cfg e) →
    ∃ k t, k ≤ es.length + 1 ∧ core.run k s = .next t ∧ Ended p t := by
  induction es with
  | nil =>
    intro s p hev hb hp _
    obtain ⟨t, hstep, ht⟩ := engine_ends_pending (.inl hev) hb hp
    exact ⟨1, t, Nat.le_refl _, run_succ hstep rfl, ht⟩
  | cons e es ih =>
    intro s p hev hb hp hall
    rcases allowedTransaction_cases (hall e List.mem_cons_self) with rfl | ⟨off, n, ha, he⟩
    · obtain ⟨t, hstep, ht⟩ := engine_ends_pending (.inr ⟨es, hev⟩) hb hp
      exact ⟨1, t, by omega, run_succ hstep rfl, ht⟩
    · obtain ⟨u, hstep, hb', hp', hcfg, hev'⟩ := busy_transaction hev hb ha he
      obtain ⟨k, t, hk, hrun, ht⟩ := ih hev' hb' (hp'.trans hp) fun e' he' =>
        hcfg.symm ▸ hall e' (List.mem_cons_of_mem e he')
      exact ⟨k + 1, t, Nat.succ_le_succ hk, run_succ hstep hrun, ht⟩

/-- Settles O48: by the invariant something is pending while BUSY = 1. -/
theorem pendingWorkCompletes : Obligations.PendingWorkCompletes := by
  intro s h hb hall
  obtain ⟨_, hbusy, _⟩ := h
  obtain ⟨p, hp⟩ := Option.isSome_iff_exists.1 (hbusy.symm.trans hb)
  obtain ⟨k, t, hk, hrun, hidle, hdone⟩ := pending_ends s.events rfl hb hp hall
  exact ⟨k, t, hk, hrun, hidle, fun c hc => hdone c (Option.some.inj (hp.symm.trans hc))⟩

/-! ## One step at a time -/

/-- Settles O3: on the idle block the CMD write issues the word's command. -/
theorem cmdWriteRunsDecodedCommand : Obligations.CmdWriteRunsDecodedCommand := by
  intro s es w i hb hd
  have ha : AccessInTable 0x00C 4 := accessInTable_regOffset .cmd
  have e := hostWrite_idle (s := { s with events := es }) (v := w) ha hb
  rw [writeIdle_cmd, issueWord_of_ok hd] at e
  simp only [step, nextAction, e]

/-- Settles O4: in both cases the engine moves, and the command completes. -/
theorem engineTurnRunsPendingCommand : Obligations.EngineTurnRunsPendingCommand := by
  intro s es c hc
  have hturn := step_engine_completing (s := { s with events := .engine :: es }) (.inr ⟨es, rfl⟩) hc
  have hend := step_engine_completing (s := { s with events := [] }) (.inl rfl) hc
  exact ⟨hturn.trans (exec_completing (s := { s with events := es }) hc).symm,
    hend.trans (exec_completing (s := { s with events := [] }) hc).symm⟩

/-- Settles O7: the idle engine's turn leaves the state as it is. -/
theorem idleEngineDoesNothing : Obligations.IdleEngineDoesNothing := by
  intro s es hb
  simp [step, nextAction, engineTurn, hb]

/-- Settles O10: in both cases the engine moves, and the step is `finishInit`. -/
theorem initStepEndsTableInitialisation : Obligations.InitStepEndsTableInitialisation := by
  intro s es hb hp
  exact ⟨step_engine_init (s := { s with events := .engine :: es }) (.inr ⟨es, rfl⟩) hb hp,
    step_engine_init (s := { s with events := [] }) (.inl rfl) hb hp⟩

/-- Settles O9: such an address is outside the region, for a read and for a write. -/
theorem addressOutsideBlockFaults : Obligations.AddressOutsideBlockFaults := by
  intro s es addr n v h
  have hout : ¬ inBlock { s with events := es } addr = true := by
    rw [inBlock_iff]
    change ¬ (s.cfg.base ≤ addr ∧ addr < s.cfg.base + 0x80000)
    omega
  simp [step, nextAction, hostRead, hostWrite, hout]

end Sys2Proof.Machine
end

section
/-! Proofs of the statements about single accesses: the command word (30_encoding.md R66), what a register, TABLE or a
buffer reads (10_state.md R17, R44; 20_memory.md R50), and what a write of DATA stores. -/

namespace Sys2Proof

/-! ## The command word (30 R66, R76) -/

theorem decodeOp_eq_ok {op : BitVec 4} {i : Instr} (h : decodeOp op = .ok i) : op = opCode i := by
  unfold decodeOp at h
  split at h
  case h_6 => cases h
  all_goals
    next hop =>
      cases h
      exact BitVec.eq_of_toNat_eq hop

theorem decodeOp_of_le {op : BitVec 4} (h : op.toNat ≤ 4) : ∃ i, decodeOp op = .ok i := by
  have hcases : op.toNat = 0 ∨ op.toNat = 1 ∨ op.toNat = 2 ∨ op.toNat = 3 ∨ op.toNat = 4 := by omega
  rcases hcases with e | e | e | e | e <;> rw [decodeOp, e] <;> exact ⟨_, rfl⟩

theorem decode_eq_ok {w : Word} {i : Instr} (h : decode w = .ok i) :
    w.extractLsb' 4 28 = 0 ∧ w.extractLsb' 0 4 = opCode i := by
  unfold decode at h
  split at h
  next hrsvd => exact ⟨hrsvd, decodeOp_eq_ok h⟩
  next => cases h

theorem opCode_le (i : Instr) : (opCode i).toNat ≤ 4 := by cases i <;> decide

/-- A word is its two fields, RSVD above OP. -/
theorem word_eq_append (w : Word) : w = w.extractLsb' 4 28 ++ w.extractLsb' 0 4 := by
  rw [BitVec.extractLsb'_append_extractLsb'_eq_extractLsb' (by rfl)]
  exact BitVec.extractLsb'_eq_self.symm

/-- Settles O2: the decoder reads the two fields of the word, and they are the word. -/
theorem legalWordsDecodeAndEncodeBack : Obligations.LegalWordsDecodeAndEncodeBack := by
  refine ⟨fun w => ⟨?_, ?_⟩, fun w i => ⟨fun h => ?_, ?_⟩⟩
  · rintro ⟨i, h⟩
    obtain ⟨hrsvd, hop⟩ := decode_eq_ok h
    exact ⟨hrsvd, hop ▸ opCode_le i⟩
  · rintro ⟨hrsvd, hop⟩
    rw [decode_of_rsvd_eq_zero hrsvd]
    exact decodeOp_of_le hop
  · obtain ⟨hrsvd, hop⟩ := decode_eq_ok h
    rw [word_eq_append w, hrsvd, hop]
    rfl
  · rintro rfl
    exact decode_encode i

end Sys2Proof

namespace Sys2Proof.Machine

open Sys2Proof.Safety

/-! ## Registers (10 R17 to R36) -/

/-- Fields side by side, as numbers. -/
theorem toNat_append_eq_add {m n : Nat} (x : BitVec m) (y : BitVec n) :
    (x ++ y).toNat = x.toNat * 2 ^ n + y.toNat := by
  rw [BitVec.toNat_append, ← Nat.shiftLeft_add_eq_or_of_lt y.isLt, Nat.shiftLeft_eq]

theorem resultWord_idle {s : State} (hb : s.busy = false) (v : Word) : resultWord s v = v := by
  rw [resultWord, hb]
  rfl

/-- A register of two 16-bit fields, as HDR_CRC and PAY_CRC are. -/
theorem append_eq_ofNat (hi lo : Half) : (hi ++ lo : Word) = BitVec.ofNat 32 (hi.toNat * 65536 + lo.toNat) := by
  apply BitVec.eq_of_toNat_eq
  have hhi := hi.isLt
  have hlo := lo.isLt
  rw [toNat_append_eq_add, BitVec.toNat_ofNat, Nat.mod_eq_of_lt (by omega)]
  omega

theorem ctrlWord_eq_ofNat (b : Bool) : (0#31 ++ BitVec.ofBool b : Word) = BitVec.ofNat 32 b.toNat := by
  cases b <;> rfl

/-- STATUS as a number: the flags are its bits 0 to 2, and ERRCODE counts in sixteens. -/
theorem statusWord_toNat (s : State) : (statusWord s).toNat =
    s.busy.toNat + 2 * s.done.toNat + 4 * s.err.toNat + 16 * (errCodeBits s.errcode).toNat := by
  simp only [statusWord, toNat_append_eq_add, BitVec.toNat_ofBool, BitVec.toNat_ofNat]
  omega

theorem statusWord_eq_ofNat (s : State) : statusWord s = BitVec.ofNat 32
    (s.busy.toNat + 2 * s.done.toNat + 4 * s.err.toNat + 16 * (errCodeBits s.errcode).toNat) := by
  rw [← statusWord_toNat, BitVec.ofNat_toNat, BitVec.setWidth_eq]

/-- Settles O29, register by register, each with its word as a number. -/
theorem registerReads : Obligations.RegisterReads := by
  intro s
  have word (r : Reg) {v : Word} (hv : v = regWord s r) : Reads s (regOffset r) 4 v := hv ▸ reads_reg s r
  refine ⟨word .ctrl (ctrlWord_eq_ofNat _).symm, word .status ?_, word .cmd rfl, word .start rfl, word .len rfl,
    word .din (BitVec.ofNat_toNat 32 s.din), fun hb => ?_⟩
  · rw [regWord, statusWord_eq_ofNat]
    cases s.errcode <;> rfl
  have result (r : Reg) {v u : Word} (hr : regWord s r = resultWord s u) (hv : v = u) : Reads s (regOffset r) 4 v :=
    word r (hv.trans (hr.trans (resultWord_idle hb u)).symm)
  refine ⟨result .crc rfl (BitVec.ofNat_toNat ..), result .result rfl ?_,
    result .frameCounter rfl (BitVec.ofNat_toNat ..), result .payloadSize rfl (BitVec.ofNat_toNat ..),
    result .hdrCrc rfl (append_eq_ofNat _ _).symm, result .payCrc rfl (append_eq_ofNat _ _).symm,
    result .consumed rfl (BitVec.ofNat_toNat ..)⟩
  cases s.result <;> rfl

/-! ## TABLE (10 R35, R45) -/

theorem initPending_iff (s : State) : initPending s = true ↔ s.pending = some .init := by
  unfold initPending
  split <;> simp [*]

/-- Settles O31: the two cases of `tableWord`. -/
theorem tableReads : Obligations.TableReads := by
  intro s i
  have hread := reads_table s i
  refine ⟨fun hp => ?_, fun hp => ?_⟩
  · rwa [tableWord, if_neg (mt (initPending_iff s).1 hp), ← BitVec.ofNat_toNat] at hread
  · rwa [tableWord, if_pos ((initPending_iff s).2 hp)] at hread

/-! ## Reads of the buffers, byte by byte (20 R50, R53, R65) -/

/-- An access to a buffer is of at most four bytes. -/
theorem width_le_four {off n : Nat} (h : AccessInTable off n) : n ≤ 4 := by
  unfold AccessInTable at h
  omega

theorem wordOfBytes_map_byte (f : Nat → Byte) {n k : Nat} (hn : n ≤ 4) (hk : k < n) :
    (wordOfBytes ((List.range n).map f)).extractLsb' (8 * k) 8 = f k := by
  rw [wordOfBytes_byte _ (by simpa using hk) (by omega), List.getElem_map, List.getElem_range]

theorem wordOfBytes_map_lt (f : Nat → Byte) {n : Nat} (hn : n ≤ 4) :
    (wordOfBytes ((List.range n).map f)).toNat < 2 ^ (8 * n) := by
  have h := wordOfBytes_lt ((List.range n).map f) (by simpa using hn)
  rwa [List.length_map, List.length_range] at h

theorem reads_data (s : State) {i n : Nat} (ha : AccessInTable (0x20000 + i) n) (hi : i < 0x20000) :
    Reads s (0x20000 + i) n (wordOfBytes ((List.range n).map fun k => dataByte s (s.draws + k) (i + k))) := by
  have h := reads_readValue s ha
  rwa [readValue, regionOf_data hi] at h

theorem reads_payloadOut (s : State) {i n : Nat} (ha : AccessInTable (0x40000 + i) n) (hi : i < 0x10000) :
    Reads s (0x40000 + i) n (wordOfBytes ((List.range n).map fun k => payloadByte s (s.draws + k) (i + k))) := by
  have h := reads_readValue s ha
  rwa [readValue, regionOf_payloadOut hi] at h

theorem engRead_eq_getD (s : State) (j i : Nat) : engRead s j i = (Memory.read s.data i).getD (Config.freeByte j) := by
  unfold engRead
  cases Memory.read s.data i <;> rfl

/-- Settles O36: the word is built from the bytes `dataByte` answers, one for each offset. -/
theorem dataReadIsLittleEndian : Obligations.DataReadIsLittleEndian := by
  intro s i n ha hi
  have hn := width_le_four ha
  refine ⟨_, reads_data s ha hi, wordOfBytes_map_lt _ hn, fun k hk => ?_⟩
  rw [wordOfBytes_map_byte _ hn hk, dataByte, engRead_eq_getD]

theorem payloadByte_idle {s : State} (hb : s.busy = false) (j i : Nat) : payloadByte s j i =
    if i < 65535 then (Memory.read s.payloadOut i).getD (Config.freeByte j) else 0 := by
  unfold payloadByte maxPayloadSize
  rw [hb]
  cases Memory.read s.payloadOut i <;> rfl

theorem payloadByte_busy {s : State} (hb : s.busy = true) (j : Nat) {i : Nat} (hi : i < 65535) :
    payloadByte s j i = Config.freeByte j := by
  unfold payloadByte maxPayloadSize
  rw [if_pos hi, if_pos hb]

/-- Settles O37: the same with `payloadByte`, which answers the byte itself while BUSY = 0. -/
theorem payloadOutReadIsLittleEndian : Obligations.PayloadOutReadIsLittleEndian := by
  intro s i n ha hi hb
  have hn := width_le_four ha
  refine ⟨_, reads_payloadOut s ha hi, wordOfBytes_map_lt _ hn, fun k hk => ?_⟩
  rw [wordOfBytes_map_byte _ hn hk, payloadByte_idle hb]

/-- Settles O34: a read that goes on answers and does nothing else. -/
theorem readsHaveNoSideEffect : Obligations.ReadsHaveNoSideEffect := by
  intro s t addr n es h
  simp only [step, nextAction] at h
  rcases hostRead_cases addr n { s with events := es } with e | e | ⟨off, _, _, e⟩ <;> rw [e] at h
  · cases h
  · cases h
  · obtain rfl := Host.Outcome.next.inj h
    exact ⟨rfl, _, rfl⟩

/-! ## Reads while BUSY = 1 (10 R44, 70 R147) -/

/-- The result registers: those that read free values while BUSY = 1. -/
def resultRegs : List Reg := [.crc, .result, .frameCounter, .payloadSize, .hdrCrc, .payCrc, .consumed]

theorem regWord_busy {s : State} (hb : s.busy = true) {r : Reg} (hr : r ∈ resultRegs) :
    regWord s r = Config.freeWord s.draws := by
  have hfree (v : Word) : resultWord s v = Config.freeWord s.draws := if_pos hb
  simp only [resultRegs, List.mem_cons, List.not_mem_nil, or_false] at hr
  rcases hr with rfl | rfl | rfl | rfl | rfl | rfl | rfl <;> exact hfree _

/-- The same block with nothing in progress. -/
def atRest (s : State) : State := { s with busy := false, pending := none }

/-- BUSY is bit 0 of STATUS and shows in no other bit. -/
theorem statusWord_busy {s : State} (hb : s.busy = true) : statusWord s = statusWord (atRest s) ||| 1 := by
  apply BitVec.eq_of_getLsbD_eq
  intro j hj
  rw [BitVec.getLsbD_or, statusWord_getLsbD, statusWord_getLsbD]
  match j with
  | 0 => exact hb
  | 1 | 2 | 3 | k + 4 => simp [atRest]

/-- The registers that read alike on the busy and the idle block. -/
theorem regWord_atRest {s : State} {r : Reg} (hs : r ≠ .status) (hr : r ∉ resultRegs) :
    regWord s r = regWord (atRest s) r := by
  cases r with
  | id | ctrl | cmd | start | len | din | bufSize => rfl
  | status => exact absurd rfl hs
  | crc | result | frameCounter | payloadSize | hdrCrc | payCrc | consumed => exact absurd (by decide) hr

/-- Under a command, TABLE, DATA, the reserved offsets and the other registers read as on the idle block. -/
theorem readValue_atRest {s : State} {c : Command} (hp : s.pending = some (.cmd c)) {off : Nat}
    (hreg : off ∉ regOffset .status :: resultRegs.map regOffset) (hout : ¬ (0x40000 ≤ off ∧ off < 0x50000)) (n : Nat) :
    readValue s off n = readValue (atRest s) off n := by
  rcases regionOf_cases off with ⟨r, e, rfl⟩ | ⟨i, _, e, _⟩ | ⟨i, e, _⟩ | ⟨i, _, rfl, hi⟩ | ⟨e, _⟩
  · obtain ⟨hs, hr⟩ := not_or.1 (mt List.mem_cons.2 hreg)
    rw [readValue, readValue, e]
    exact regWord_atRest (fun h => hs (congrArg regOffset h)) fun h => hr (List.mem_map_of_mem h)
  · have hinit : initPending s = initPending (atRest s) := by simp [initPending, atRest, hp]
    rw [readValue, readValue, e]
    simp only [tableWord, hinit]
    rfl
  · rw [readValue, readValue, e]
    rfl
  · omega
  · rw [readValue, readValue, e]

/-- Settles O30: result registers by `regWord_busy`, PAYLOAD_OUT byte by byte, and the rest by comparison with the block
at rest. -/
theorem resultReadsAreFreeWhilePending : Obligations.ResultReadsAreFreeWhilePending := by
  intro s hb
  have hfree : ∀ off ∈ resultRegs.map regOffset, Reads s off 4 (Config.freeWord s.draws) :=
    List.forall_mem_map.2 fun r hr => regWord_busy hb hr ▸ reads_reg s r
  refine ⟨hfree, fun i n ha hi => ⟨_, reads_payloadOut s ha hi, fun k hk hlast => ?_⟩, fun c hp => ⟨?_, ?_⟩⟩
  · rw [wordOfBytes_map_byte _ (width_le_four ha) hk, payloadByte_busy hb _ hlast]
  · exact statusWord_busy hb ▸ reads_reg s .status
  · intro off n ha hreg hout
    exact readValue_atRest hp hreg hout n ▸ reads_readValue s ha

/-! ## Writes of DATA (20 R50, R52) -/

theorem writes_data {s : State} (hb : s.busy = false) {i n : Nat} (ha : AccessInTable (0x20000 + i) n)
    (hi : i < 0x20000) (v : Word) : Writes s (0x20000 + i) n v (writeData i n v s) :=
  writes_of_writeIdle ha hb fun es => by
    rw [writeIdle, regionOf_data hi]
    rfl

theorem bytesOfWord_getElem? {n k : Nat} (h : k < n) (v : Word) :
    (bytesOfWord n v)[k]? = some (v.extractLsb' (8 * k) 8) := by
  simp [bytesOfWord, h]

/-- Settles O35: the bytes below BUF_BYTES are stored, by the law of the store. -/
theorem dataWriteStoresLittleEndian : Obligations.DataWriteStoresLittleEndian := by
  intro s i n v hb ha hi
  have hlen : ((bytesOfWord n v).take (s.cfg.bufBytes - i)).length = min (s.cfg.bufBytes - i) n := by
    rw [List.length_take, bytesOfWord_length]
  refine ⟨_, writes_data hb ha hi v, rfl, fun k hk hlt => ?_, fun a hout => ?_⟩
  · rw [writeData_data, Memory.read_store, hlen, if_pos (by omega), Nat.add_sub_cancel_left,
      List.getElem?_take_of_lt (by omega), bytesOfWord_getElem? hk]
  · rw [writeData_data, Memory.read_store, hlen, if_neg (by omega)]

/-- Storing on where a store ended is one store. -/
theorem store_store_adjacent {m : Memory} (hm : Memory.Wf m) (a : Nat) (bs cs : List Byte) :
    Memory.store (Memory.store m a bs) (a + bs.length) cs = Memory.store m a (bs ++ cs) := by
  refine Memory.ext_of_wf (Memory.wf_store (Memory.wf_store hm a bs) _ _) (Memory.wf_store hm a _) fun i => ?_
  rw [Memory.read_store, Memory.read_store, Memory.read_store, List.length_append]
  by_cases h1 : a ≤ i ∧ i < a + bs.length
  · rw [if_neg (by omega), if_pos h1, if_pos (by omega), List.getElem?_append_left (by omega)]
  · by_cases h2 : a + bs.length ≤ i ∧ i < a + bs.length + cs.length
    · rw [if_pos h2, if_pos (by omega), List.getElem?_append_right (by omega), Nat.sub_sub]
    · rw [if_neg h2, if_neg h1, if_neg (by omega)]

/-- A write below BUF_BYTES stores all its bytes. -/
theorem writeData_within {s : State} {i n : Nat} (h : i + n ≤ s.cfg.bufBytes) (v : Word) :
    writeData i n v s = { s with data := Memory.store s.data i (bytesOfWord n v) } := by
  rw [writeData, List.take_of_length_le (by rw [bytesOfWord_length]; omega)]

theorem bytesOfWord_succ (n : Nat) (v : Word) :
    bytesOfWord (n + 1) v = bytesOfWord n v ++ [v.extractLsb' (8 * n) 8] := by
  rw [bytesOfWord, bytesOfWord, List.range_succ, List.map_append]
  rfl

/-- A one-byte write carries the low byte of its value. -/
theorem bytesOfWord_one {v : Word} {n x : Nat} (hx : x % 256 = v.toNat / 2 ^ (8 * n) % 256) :
    bytesOfWord 1 (BitVec.ofNat 32 x) = [v.extractLsb' (8 * n) 8] := by
  have hbyte : (BitVec.ofNat 32 x).extractLsb' (8 * 0) 8 = v.extractLsb' (8 * n) 8 := by
    apply BitVec.eq_of_toNat_eq
    rw [BitVec.extractLsb'_toNat, BitVec.extractLsb'_toNat, BitVec.toNat_ofNat, Nat.shiftRight_eq_div_pow,
      Nat.shiftRight_eq_div_pow]
    omega
  rw [← hbyte]
  rfl

/-- The block after the first `n` bytes of `v` are stored at index `i` of DATA. -/
def withBytes (s : State) (i : Nat) (v : Word) (n : Nat) : State :=
  { s with data := Memory.store s.data i (bytesOfWord n v) }

section WordInBytes

variable {s : State} (hb : s.busy = false) {i : Nat} (hbuf : i + 4 ≤ s.cfg.bufBytes) (hmax : i + 4 ≤ 0x20000)

include hb hbuf hmax

theorem writes_word (h4 : i % 4 = 0) (v : Word) : Writes s (0x20000 + i) 4 v (withBytes s i v 4) := by
  have ha : AccessInTable (0x20000 + i) 4 := by
    unfold AccessInTable
    omega
  have h := writes_data hb ha (by omega) v
  rwa [writeData_within hbuf] at h

/-- A byte write stores the next byte where the last one ended. -/
theorem writes_nextByte (hm : Memory.Wf s.data) {v : Word} {n x : Nat} (hn : n < 4)
    (hx : x % 256 = v.toNat / 2 ^ (8 * n) % 256) :
    Writes (withBytes s i v n) (0x20000 + i + n) 1 (BitVec.ofNat 32 x) (withBytes s i v (n + 1)) := by
  have ha : AccessInTable (0x20000 + (i + n)) 1 := by
    unfold AccessInTable
    omega
  have hfits : i + n + 1 ≤ (withBytes s i v n).cfg.bufBytes := by
    change i + n + 1 ≤ s.cfg.bufBytes
    omega
  have hstore : Memory.store (withBytes s i v n).data (i + n) (bytesOfWord 1 (BitVec.ofNat 32 x)) =
      Memory.store s.data i (bytesOfWord (n + 1) v) := by
    have h := store_store_adjacent hm i (bytesOfWord n v) [v.extractLsb' (8 * n) 8]
    rwa [bytesOfWord_length, ← bytesOfWord_succ, ← bytesOfWord_one hx] at h
  have h := writes_data (s := withBytes s i v n) hb ha (by omega) (BitVec.ofNat 32 x)
  rw [writeData_within hfits, hstore] at h
  rwa [Nat.add_assoc]

end WordInBytes

/-- Settles O38: each of the four byte writes stores the next byte of the word. -/
theorem wordWriteEqualsFourByteWrites : Obligations.WordWriteEqualsFourByteWrites := by
  intro s i v hb hm h4 hbuf hmax
  have hv := v.isLt
  have storeNext {n x : Nat} := writes_nextByte (n := n) (x := x) (v := v) hb hbuf hmax hm
  exact ⟨_, _, _, _, writes_word hb hbuf hmax h4 v, storeNext (n := 0) (by decide) (by omega),
    storeNext (n := 1) (by decide) (by omega), storeNext (n := 2) (by decide) (by omega),
    storeNext (n := 3) (by decide) (by omega)⟩

end Sys2Proof.Machine
end

section
/-! Proof of the statement about the two forms of the CRC (40_crc_engine.md R92): a round is linear over exclusive or,
so the high byte of the accumulator can be taken through the eight rounds by the table and the low byte by a shift. -/

namespace Sys2Proof.Machine

/-- What a round feeds back: the polynomial, if the top bit is shifted out. -/
def feedback (c : Half) : Half := if c.getLsbD 15 then polynomial else 0

theorem genRound_eq (c : Half) : genRound c = (c <<< 1) ^^^ feedback c := by
  unfold genRound feedback
  split
  · rfl
  · exact (BitVec.xor_zero).symm

theorem feedback_xor (a b : Half) : feedback (a ^^^ b) = feedback a ^^^ feedback b := by
  unfold feedback
  rw [BitVec.getLsbD_xor]
  cases a.getLsbD 15 <;> cases b.getLsbD 15 <;> simp

theorem genRound_xor (a b : Half) : genRound (a ^^^ b) = genRound a ^^^ genRound b := by
  rw [genRound_eq, genRound_eq, genRound_eq, feedback_xor, BitVec.shiftLeft_xor_distrib]
  ac_rfl

theorem genRounds_xor (n : Nat) : ∀ a b : Half, genRounds n (a ^^^ b) = genRounds n a ^^^ genRounds n b := by
  induction n with
  | zero => exact fun _ _ => rfl
  | succ n ih =>
    intro a b
    rw [genRounds, genRounds, genRounds, genRound_xor, ih]

/-- As long as nothing is shifted out, the rounds only shift. -/
theorem genRounds_of_small (n : Nat) : ∀ c : Half, c.toNat * 2 ^ n < 2 ^ 16 → genRounds n c = c <<< n := by
  induction n with
  | zero => exact fun c _ => (BitVec.shiftLeft_zero c).symm
  | succ n ih =>
    intro c hc
    have hpos : 0 < 2 ^ n := Nat.two_pow_pos n
    have hc' : c.toNat * 2 * 2 ^ n < 2 ^ 16 := by rwa [Nat.mul_assoc, ← Nat.pow_succ']
    have hsmall : c.toNat * 2 < 2 ^ 16 := Nat.lt_of_le_of_lt (Nat.le_mul_of_pos_right _ hpos) hc'
    have htop : c.getLsbD 15 = false := Nat.testBit_lt_two_pow (by omega)
    have hround : genRound c = c <<< 1 := by rw [genRound, htop, if_neg (by decide)]
    have htwice : (c <<< 1).toNat = c.toNat * 2 := by
      rw [BitVec.toNat_shiftLeft, Nat.shiftLeft_eq, Nat.mod_eq_of_lt (by omega)]
    rw [genRounds, hround, ih _ (by rwa [htwice]), ← BitVec.shiftLeft_add, Nat.add_comm]

/-- The accumulator's low byte. -/
def lowByte (c : Half) : Half := (c.setWidth 8).setWidth 16

theorem lowByte_lt (c : Half) : (lowByte c).toNat < 2 ^ 8 := by
  rw [lowByte, BitVec.toNat_setWidth, BitVec.toNat_setWidth]
  omega

/-- Shifting left by eight drops the high byte. -/
theorem lowByte_shiftLeft (c : Half) : lowByte c <<< 8 = c <<< 8 := by
  apply BitVec.eq_of_getLsbD_eq
  intro j hj
  simp only [lowByte, BitVec.getLsbD_shiftLeft, BitVec.getLsbD_setWidth, hj]
  by_cases h : j < 8
  · simp [h]
  · simp [h, show j - 8 < 16 by omega, show j - 8 < 8 by omega]

/-- The accumulator in bytes, with the input byte added to the high one. -/
theorem xor_input (c : Half) (b : Byte) :
    c ^^^ (b.setWidth 16 <<< 8) = lowByte c ^^^ (((c >>> 8).setWidth 8 ^^^ b).setWidth 16 <<< 8) := by
  apply BitVec.eq_of_getLsbD_eq
  intro j hj
  simp only [lowByte, BitVec.getLsbD_xor, BitVec.getLsbD_shiftLeft, BitVec.getLsbD_setWidth, BitVec.getLsbD_ushiftRight,
    hj]
  by_cases h : j < 8
  · simp [h]
  · simp [h, show j - 8 < 16 by omega, show j - 8 < 8 by omega, show 8 + (j - 8) = j by omega]

/-- One table step is the eight bit-serial rounds. -/
theorem crcUpdate_eq_crcBitSerial (c : Half) (b : Byte) : crcUpdate c b = crcBitSerial c b := by
  have hlow : genRounds 8 (lowByte c) = c <<< 8 := by
    have := lowByte_lt c
    rw [genRounds_of_small 8 _ (by omega), lowByte_shiftLeft]
  rw [crcBitSerial, xor_input, genRounds_xor, hlow]
  rfl

/-- Settles O49, byte by byte. -/
theorem tableCrcEqualsBitSerialCrc : Obligations.TableCrcEqualsBitSerialCrc := by
  intro w
  have hstep : crcUpdate = crcBitSerial := funext fun c => funext (crcUpdate_eq_crcBitSerial c)
  rw [crc16, hstep]
  rfl

end Sys2Proof.Machine
end

section
/-! Proofs of the statements about the encoder and the stream scanner (45_host_reference.md). An iteration of the
scanner ends, moves on, or reports a frame; what it does is said once, for every number of iterations still allowed. -/

namespace Sys2Proof.Machine

open Sys2Proof.Safety

/-- Settles O50, at both sides of the limit. -/
theorem encodedFrameLength : Obligations.EncodedFrameLength := by
  intro payload fc
  refine ⟨fun h => ?_, fun h => if_pos h⟩
  have hf : createFrame payload fc = .ok (frameBytes payload fc) := createFrame_eq_ok.2 ⟨h, rfl⟩
  refine ⟨_, hf, ?_⟩
  rw [length_of_createFrame hf]
  omega

/-! ## The preamble search (45 R117) -/

theorem searchPreamble_eq_some {w : List Byte} : ∀ {k : Nat}, searchPreamble w = some k →
    w[k]? = some 0xFA ∧ w[k + 1]? = some 0xCE := by
  induction w with
  | nil => exact nofun
  | cons a rest ih =>
    intro k h
    rw [searchPreamble] at h
    split at h
    next hpre =>
      obtain ⟨rfl, hce⟩ := hpre
      cases h
      exact ⟨rfl, by rwa [List.getElem?_cons_succ, ← List.head?_eq_getElem?]⟩
    next =>
      obtain ⟨j, hj, rfl⟩ := Option.map_eq_some_iff.1 h
      exact ih hj

theorem searchPreamble_eq_none {w : List Byte}
    (h : ∀ k, ¬ (w[k]? = some (0xFA : Byte) ∧ w[k + 1]? = some (0xCE : Byte))) : searchPreamble w = none := by
  cases e : searchPreamble w with
  | none => rfl
  | some k => exact absurd (searchPreamble_eq_some e) (h k)

theorem searchPreamble_start (w : List Byte) : searchPreamble (0xFA :: 0xCE :: w) = some 0 := by
  simp [searchPreamble]

/-! ## One iteration (45 R116, R118) -/

section Found

variable {data : List Byte} {pos k : Nat} (hk : searchPreamble (data.drop pos) = some k)

include hk

theorem found_bytes : data[pos + k]? = some 0xFA ∧ data[pos + k + 1]? = some 0xCE := by
  have h := searchPreamble_eq_some hk
  rwa [List.getElem?_drop, List.getElem?_drop] at h

theorem found_lt : pos + k + 2 ≤ data.length := by
  obtain ⟨h, _⟩ := List.getElem?_eq_some_iff.1 (found_bytes hk).2
  exact h

variable {o : ParseOut} (ho : parseFrame (data.drop (pos + k)) = o)

include ho

/-- From a found preamble the parse does not answer INVALID_PREAMBLE. -/
theorem found_parse_cases :
    o.res = .insufficientData ∨ o.res = .invalidHeaderCrc ∨
    (o.res = .invalidPayloadCrc ∧ pos + k + (10 + o.ps.toNat) ≤ data.length) ∨
    (o.res = .success ∧ 10 ≤ o.consumed ∧ pos + k + o.consumed ≤ data.length) := by
  obtain ⟨hfa, hce⟩ := found_bytes hk
  have hlen := found_lt hk
  have h0 : (data.drop (pos + k)).getD 0 0 = 0xFA := by
    rw [List.getD_eq_getElem?_getD, List.getElem?_drop, Nat.add_zero, hfa]
    rfl
  have h1 : (data.drop (pos + k)).getD 1 0 = 0xCE := by
    rw [List.getD_eq_getElem?_getD, List.getElem?_drop, hce]
    rfl
  rcases parseFrame_cases (data.drop (pos + k)) with
    ⟨_, e⟩ | ⟨_, hne, _⟩ | ⟨_, _, e⟩ | ⟨_, _, e⟩ | ⟨⟨_, hfit⟩, _, e⟩ | ⟨⟨_, hfit⟩, _, e⟩
  case inr.inl =>
    rcases hne with hne | hne
    · exact absurd h0 hne
    · exact absurd h1 hne
  all_goals rw [← ho, e]
  · exact .inl rfl
  · exact .inr (.inl rfl)
  · exact .inl rfl
  · refine .inr (.inr (.inl ⟨rfl, ?_⟩))
    rw [List.length_drop] at hfit
    change pos + k + (10 + (le16 (data.drop (pos + k)) 4).toNat) ≤ data.length
    omega
  · refine .inr (.inr (.inr ⟨rfl, Nat.le_add_right 10 _, ?_⟩))
    rw [List.length_drop] at hfit
    change pos + k + (10 + (le16 (data.drop (pos + k)) 4).toNat) ≤ data.length
    omega

variable (fuel : Nat)

theorem scanFrom_insufficientData (h : o.res = .insufficientData) :
    scanFrom (fuel + 1) data pos = ([], pos + k) := by
  have hlen := found_lt hk
  rw [scanFrom, if_neg (by omega), hk]
  simp only [ho, h]

theorem scanFrom_invalidHeaderCrc (h : o.res = .invalidHeaderCrc) :
    scanFrom (fuel + 1) data pos = scanFrom fuel data (pos + k + 2) := by
  have hlen := found_lt hk
  rw [scanFrom, if_neg (by omega), hk]
  simp only [ho, h]

/-- The whole frame is there, so the advance is its length. -/
theorem scanFrom_invalidPayloadCrc (h : o.res = .invalidPayloadCrc)
    (hfit : pos + k + (10 + o.ps.toNat) ≤ data.length) :
    scanFrom (fuel + 1) data pos = scanFrom fuel data (pos + k + (10 + o.ps.toNat)) := by
  have hlen := found_lt hk
  rw [scanFrom, if_neg (by omega), hk]
  simp only [ho, h]
  rw [frameLength_eq, Nat.min_eq_left (by omega)]

theorem scanFrom_success (h : o.res = .success) :
    scanFrom (fuel + 1) data pos =
      ((o.fc, o.payload) :: (scanFrom fuel data (pos + k + o.consumed)).1,
        (scanFrom fuel data (pos + k + o.consumed)).2) := by
  have hlen := found_lt hk
  rw [scanFrom, if_neg (by omega), hk]
  simp only [ho, h]

end Found

theorem scanFrom_end {data : List Byte} {pos : Nat} (h : data.length ≤ pos) (fuel : Nat) :
    scanFrom fuel data pos = ([], pos) := by
  cases fuel with
  | zero => rfl
  | succ fuel => rw [scanFrom, if_pos h]

theorem scanFrom_notFound {data : List Byte} {pos : Nat} (h : pos < data.length)
    (hk : searchPreamble (data.drop pos) = none) (fuel : Nat) :
    scanFrom (fuel + 1) data pos = ([], data.length - 1) := by
  rw [scanFrom, if_neg (Nat.not_le.2 h), hk]

/-- What one iteration from `pos` does: it ends the scan, moves on, or reports a frame and moves past it. Each move is
forward and inside the data. -/
theorem scanFrom_cases {data : List Byte} {pos : Nat} (h : pos < data.length) :
    (∃ e ≤ data.length, ∀ fuel, scanFrom (fuel + 1) data pos = ([], e)) ∨
    (∃ pos', pos < pos' ∧ pos' ≤ data.length ∧ ∀ fuel, scanFrom (fuel + 1) data pos = scanFrom fuel data pos') ∨
    (∃ start pos', (parseFrame (data.drop start)).res = .success ∧ pos < pos' ∧ pos' ≤ data.length ∧
      ∀ fuel, scanFrom (fuel + 1) data pos =
        (((parseFrame (data.drop start)).fc, (parseFrame (data.drop start)).payload) :: (scanFrom fuel data pos').1,
          (scanFrom fuel data pos').2)) := by
  cases hk : searchPreamble (data.drop pos) with
  | none => exact .inl ⟨_, Nat.sub_le _ 1, scanFrom_notFound h hk⟩
  | some k =>
    have hlen := found_lt hk
    rcases found_parse_cases hk rfl with hres | hres | ⟨hres, hfit⟩ | ⟨hres, hpos, hfit⟩
    · exact .inl ⟨pos + k, by omega, fun fuel => scanFrom_insufficientData hk rfl fuel hres⟩
    · exact .inr (.inl ⟨pos + k + 2, by omega, by omega, fun fuel => scanFrom_invalidHeaderCrc hk rfl fuel hres⟩)
    · exact .inr (.inl ⟨_, by omega, hfit, fun fuel => scanFrom_invalidPayloadCrc hk rfl fuel hres hfit⟩)
    · exact .inr (.inr ⟨pos + k, _, hres, by omega, hfit, fun fuel => scanFrom_success hk rfl fuel hres⟩)

/-! ## The statements -/

theorem scanFrom_position_le (data : List Byte) (fuel : Nat) : ∀ {pos : Nat}, pos ≤ data.length →
    (scanFrom fuel data pos).2 ≤ data.length := by
  induction fuel with
  | zero => exact id
  | succ fuel ih =>
    intro pos hpos
    by_cases hend : data.length ≤ pos
    · rwa [scanFrom_end hend]
    rcases scanFrom_cases (Nat.lt_of_not_le hend) with
      ⟨e, he, hscan⟩ | ⟨pos', _, hpos', hscan⟩ | ⟨start, pos', _, _, hpos', hscan⟩ <;> rw [hscan fuel]
    · exact he
    · exact ih hpos'
    · exact ih hpos'

/-- Iterations beyond the bytes left change nothing. -/
theorem scanFrom_fuel (data : List Byte) (fuel : Nat) : ∀ {fuel' pos : Nat}, data.length < fuel + pos →
    data.length < fuel' + pos → scanFrom fuel data pos = scanFrom fuel' data pos := by
  induction fuel with
  | zero =>
    intro fuel' pos h _
    rw [scanFrom_end (by omega), scanFrom_end (by omega)]
  | succ fuel ih =>
    intro fuel' pos h h'
    by_cases hend : data.length ≤ pos
    · rw [scanFrom_end hend, scanFrom_end hend]
    obtain ⟨m, rfl⟩ : ∃ m, fuel' = m + 1 := ⟨fuel' - 1, by omega⟩
    rcases scanFrom_cases (Nat.lt_of_not_le hend) with
      ⟨e, _, hscan⟩ | ⟨pos', hlt, _, hscan⟩ | ⟨start, pos', _, hlt, _, hscan⟩ <;> rw [hscan fuel, hscan m]
    · exact ih (by omega) (by omega)
    · rw [ih (pos := pos') (fuel' := m) (by omega) (by omega)]

/-- Settles O54: every iteration moves forward inside the data. -/
theorem scannerTerminates : Obligations.ScannerTerminates := by
  intro data
  exact ⟨scanFrom_position_le data _ (Nat.zero_le _), fun fuel h => scanFrom_fuel data fuel (by omega) (by omega)⟩

/-- Settles O55: the first search fails, unless there is nothing to search. -/
theorem scanWithoutPreamble : Obligations.ScanWithoutPreamble := by
  intro data h
  have hk : searchPreamble (data.drop 0) = none := searchPreamble_eq_none h
  cases data with
  | nil => rfl
  | cons b rest => exact scanFrom_notFound (Nat.succ_pos _) hk _

theorem searchPreamble_createFrame {payload f : List Byte} {fc : Half} (h : createFrame payload fc = .ok f)
    (rest : List Byte) : searchPreamble (f ++ rest) = some 0 := by
  obtain ⟨_, rfl⟩ := createFrame_eq_ok.1 h
  exact searchPreamble_start _

/-- From the start of an encoded frame the scanner reports it and goes on after it. -/
theorem scanFrom_createFrame {payload f : List Byte} {fc : Half} (h : createFrame payload fc = .ok f)
    (before rest : List Byte) (fuel : Nat) :
    scanFrom (fuel + 1) (before ++ (f ++ rest)) before.length =
      ((fc, payload) :: (scanFrom fuel (before ++ (f ++ rest)) (before.length + f.length)).1,
        (scanFrom fuel (before ++ (f ++ rest)) (before.length + f.length)).2) := by
  have hdrop : (before ++ (f ++ rest)).drop before.length = f ++ rest := List.drop_left
  have hk : searchPreamble ((before ++ (f ++ rest)).drop before.length) = some 0 := by
    rw [hdrop, searchPreamble_createFrame h]
  have hparse := parseOfEncodedFrame payload f rest fc h
  rw [← hdrop] at hparse
  exact scanFrom_success hk hparse fuel rfl

/-- The frames of the stream, from wherever it starts in the data. -/
theorem scanFrom_frames (frames : List (Half × List Byte)) : ∀ (encoded : List (List Byte)) (before : List Byte)
    (fuel : Nat), frames.map (fun p => createFrame p.2 p.1) = encoded.map .ok → encoded.flatten.length < fuel →
    scanFrom fuel (before ++ encoded.flatten) before.length = (frames, (before ++ encoded.flatten).length) := by
  induction frames with
  | nil =>
    intro encoded before fuel h _
    obtain rfl : encoded = [] := List.map_eq_nil_iff.1 h.symm
    rw [List.flatten_nil, List.append_nil, scanFrom_end (Nat.le_refl _)]
  | cons p frames ih =>
    intro encoded before fuel h hfuel
    cases encoded with
    | nil => cases h
    | cons f encoded =>
      obtain ⟨hf, htail⟩ := List.cons_eq_cons.1 h
      have hlen := length_of_createFrame hf
      rw [List.flatten_cons, List.length_append] at hfuel
      obtain ⟨m, rfl⟩ : ∃ m, fuel = m + 1 := ⟨fuel - 1, by omega⟩
      have hrest := ih encoded (before ++ f) m htail (by omega)
      rw [List.append_assoc, List.length_append] at hrest
      rw [List.flatten_cons, scanFrom_createFrame hf, hrest]

/-- Settles O56, by induction on the frames. -/
theorem scannerFindsEveryFrame : Obligations.ScannerFindsEveryFrame := by
  intro frames encoded h
  exact scanFrom_frames frames encoded [] _ h (Nat.lt_succ_self _)

/-- A reported frame was parsed somewhere in the data. -/
theorem mem_scanFrom (data : List Byte) (p : Half × List Byte) (fuel : Nat) : ∀ {pos : Nat},
    p ∈ (scanFrom fuel data pos).1 → ∃ start, (parseFrame (data.drop start)).res = .success ∧
      p = ((parseFrame (data.drop start)).fc, (parseFrame (data.drop start)).payload) := by
  induction fuel with
  | zero => exact nofun
  | succ fuel ih =>
    intro pos hp
    by_cases hend : data.length ≤ pos
    · rw [scanFrom_end hend] at hp
      cases hp
    rcases scanFrom_cases (Nat.lt_of_not_le hend) with
      ⟨e, _, hscan⟩ | ⟨pos', _, _, hscan⟩ | ⟨start, pos', hres, _, _, hscan⟩ <;> rw [hscan fuel] at hp
    · cases hp
    · exact ih hp
    · rcases List.mem_cons.1 hp with rfl | hp
      · exact ⟨start, hres, rfl⟩
      · exact ih hp

/-- Settles O57: where a frame was parsed, its encoding stands. -/
theorem scannerReportsOnlyEncodedFrames : Obligations.ScannerReportsOnlyEncodedFrames := by
  intro data payload fc hp
  obtain ⟨start, hres, e⟩ := mem_scanFrom data (fc, payload) _ hp
  obtain ⟨rfl, rfl⟩ := Prod.mk.inj e
  obtain ⟨hf, _⟩ := parsedFrameWasEncoded _ hres
  refine ⟨data.take start, _, (data.drop start).drop (parseFrame (data.drop start)).consumed, hf, ?_⟩
  rw [List.append_assoc, List.take_append_drop, List.take_append_drop]

end Sys2Proof.Machine
end

section
/-! Proof of the statement about the scanner run on the block (45_host_reference.md R121): a simulation, one iteration
of `scanBlockFrom` against one of `scanFrom`. Each transaction of an iteration keeps the invariant and the input of the
scan, and the PARSE in it answers the record that the reference computes. -/

namespace Sys2Proof.Machine

open Sys2Proof.Safety

/-! ## What the whole scan keeps -/

/-- DATA, the parameters and the recorded error are as they were. -/
structure SameInput (s t : State) : Prop where
  cfg : t.cfg = s.cfg
  err : t.err = s.err
  errcode : t.errcode = s.errcode
  data : t.data = s.data

theorem SameInput.trans {s t u : State} (h : SameInput s t) (h' : SameInput t u) : SameInput s u :=
  ⟨h'.cfg.trans h.cfg, h'.err.trans h.err, h'.errcode.trans h.errcode, h'.data.trans h.data⟩

theorem sameInput_afterReads (s : State) (r : List Word) (n : Nat) : SameInput s (afterReads s r n) :=
  ⟨rfl, rfl, rfl, rfl⟩

theorem sameInput_completed (c : Command) (s : State) : SameInput s (completed c s) :=
  ⟨completed_cfg c s, completed_err c s, completed_errcode c s, completed_data c s⟩

/-- The block stands ready for the scan of `stream`. -/
structure Holding (stream : List Byte) (s : State) : Prop where
  inv : Inv s
  held : DataHolds s 0 stream
  fits : stream.length ≤ s.cfg.bufBytes

theorem Holding.of_sameInput {stream : List Byte} {s t : State} (h : Holding stream s) (hst : SameInput s t)
    (ht : Inv t) : Holding stream t := by
  refine ⟨ht, ?_, by rw [hst.cfg]; exact h.fits⟩
  unfold DataHolds
  rw [hst.data]
  exact h.held

theorem holding_afterReads {stream : List Byte} {s : State} (h : Holding stream s) (r : List Word) (n : Nat) :
    Holding stream (afterReads s r n) := h.of_sameInput (sameInput_afterReads s r n) (afterReads_inv.2 h.inv)

theorem Holding.drop {stream : List Byte} {s : State} (h : Holding stream s) (a : Nat) :
    DataHolds s a (stream.drop a) := by
  intro j hj
  rw [List.length_drop] at hj
  have hread := h.held (a + j) (by omega)
  rwa [Nat.zero_add, ← List.getElem?_drop] at hread

/-! ## `wait` ends with the block idle -/

theorem transact_engine_completing {s : State} {c : Command} (h : Completing s c) :
    transact .engine s = .next (completed c s) :=
  step_engine_completing (s := { s with events := .engine :: s.events }) (.inr ⟨_, rfl⟩) h

theorem transact_engine_init {s : State} (hb : s.busy = true) (hp : s.pending = some .init) :
    transact .engine s = .next (finishInit s) :=
  step_engine_init (s := { s with events := .engine :: s.events }) (.inr ⟨_, rfl⟩) hb hp

theorem loadReg_afterReads (s : State) (r : Reg) : loadReg (regOffset r) s =
    .next (afterReads s (regWord s r :: s.responses) (s.draws + 4)) := by
  rw [loadReg_next s (accessInTable_regOffset r), readValue, regionOf_regOffset]
  rfl

/-- `wait` under a command lets it complete, and only reads besides. -/
theorem waitIdle_completing {s : State} {c : Command} (h : Completing s c) (polls : Nat) : ∃ r n r' n',
    waitIdle polls s = .next (afterReads (completed c (afterReads s r n)) r' n') := by
  obtain ⟨r, n, e⟩ := waitIdle_of_busy polls h.1
  rw [e, transact_engine_completing (s := afterReads s r n) h, onNext_next]
  exact ⟨r, n, _, _, loadReg_afterReads _ .status⟩

theorem waitIdle_init {s : State} (hb : s.busy = true) (hp : s.pending = some .init) (polls : Nat) : ∃ r n,
    waitIdle polls s = .next (afterReads (finishInit s) r n) := by
  obtain ⟨r, n, e⟩ := waitIdle_of_busy polls hb
  rw [e, transact_engine_init (s := afterReads s r n) hb hp, onNext_next]
  exact ⟨_, _, loadReg_afterReads _ .status⟩

/-- Whatever is pending, after `wait` the block is idle, in the invariant, with the same input. -/
theorem waitIdle_next {s : State} (h : Inv s) (polls : Nat) :
    ∃ t, waitIdle polls s = .next t ∧ t.busy = false ∧ Inv t ∧ SameInput s t := by
  cases hb : s.busy with
  | false =>
    obtain ⟨r, n, e⟩ := waitIdle_of_idle hb polls
    exact ⟨_, e, hb, h, sameInput_afterReads s r n⟩
  | true =>
    obtain ⟨_, hbusy, _⟩ := id h
    obtain ⟨p, hp⟩ := Option.isSome_iff_exists.1 (hbusy.symm.trans hb)
    cases p with
    | init =>
      obtain ⟨r, n, e⟩ := waitIdle_init hb hp polls
      have hinv : Inv (finishInit s) := inv_finishInit h
      exact ⟨_, e, rfl, afterReads_inv.2 hinv, rfl, rfl, rfl, rfl⟩
    | cmd c =>
      obtain ⟨r, n, r', n', e⟩ := waitIdle_completing ⟨hb, hp⟩ polls
      have hinv : Inv (completed c (afterReads s r n)) := inv_completed (afterReads_inv.2 h) c
      have hsame := (sameInput_afterReads s r n).trans (sameInput_completed c _)
      exact ⟨_, e, completed_busy c _, afterReads_inv.2 hinv, hsame.trans (sameInput_afterReads _ r' n')⟩

/-! ## The PARSE of one candidate -/

/-- The registers and PAYLOAD_OUT report the record `o`. -/
structure Reports (o : ParseOut) (t : State) : Prop where
  busy : t.busy = false
  result : t.result = o.res
  frameCounter : t.frameCounter = o.fc
  payloadSize : t.payloadSize = o.ps
  consumed : t.consumed = BitVec.ofNat 17 o.consumed
  payload : o.res = .success → ∀ k < o.payload.length, Memory.read t.payloadOut k = o.payload[k]?

theorem reports_parsedState (o : ParseOut) (c : Command) (s : State) : Reports o (parsedState o c s) :=
  ⟨rfl, rfl, rfl, rfl, rfl, fun h k hk => by rw [read_parsedState_payloadOut h, if_pos hk]⟩

theorem reports_afterReads {o : ParseOut} {t : State} (h : Reports o t) (r : List Word) (n : Nat) :
    Reports o (afterReads t r n) := ⟨h.busy, h.result, h.frameCounter, h.payloadSize, h.consumed, h.payload⟩

/-- The operands of a PARSE in place. -/
def withWindow (s : State) (start len : Nat) : State :=
  { s with start := BitVec.ofNat 32 start, len := BitVec.ofNat 32 len }

theorem inv_withWindow {s : State} (h : Inv s) (hb : s.busy = false) (start len : Nat) :
    Inv (withWindow s start len) := by
  have hstart : Inv (writeReg .start (BitVec.ofNat 32 start) s) := inv_writeReg h hb .start _
  exact inv_writeReg hstart hb .len (BitVec.ofNat 32 len)

theorem storeReg_start {s : State} (hb : s.busy = false) (v : Nat) :
    storeReg 0x010 v s = .next { s with start := BitVec.ofNat 32 v } :=
  storeReg_next (writes_reg hb (r := .start) (by decide) (BitVec.ofNat 32 v))

theorem storeReg_len {s : State} (hb : s.busy = false) (v : Nat) :
    storeReg 0x014 v s = .next { s with len := BitVec.ofNat 32 v } :=
  storeReg_next (writes_reg hb (r := .len) (by decide) (BitVec.ofNat 32 v))

/-- The command word of PARSE, written to the idle block with the window in range. -/
theorem storeReg_parse {s : State} (hb : s.busy = false) (hr : windowInRange s = true) :
    storeReg 0x00C 0x4 s = .next (acceptCommand .parse s) := by
  have hdecode : decode (BitVec.ofNat 32 0x4) = .ok .parse := decode_encode .parse
  have h := storeReg_next (writes_cmd_of_decode_ok hb hdecode)
  rcases startCommand_cases .parse s with ⟨_, hout, _⟩ | ⟨_, e⟩
  · exact absurd (hout.symm.trans hr) nofun
  · rwa [e] at h

/-- Once the block is idle, `parse start, len` is accepted if its window is in range, and waited for. -/
theorem parseOnBlock_of_wait {s s1 : State} {polls start len : Nat} (hwait : waitIdle polls s = .next s1)
    (hb : s1.busy = false) (hr : windowInRange (withWindow s1 start len) = true) :
    parseOnBlock polls start len s = waitIdle polls (acceptCommand .parse (withWindow s1 start len)) := by
  have hlen : storeReg 0x014 len { s1 with start := BitVec.ofNat 32 start } = .next (withWindow s1 start len) :=
    storeReg_len (s := { s1 with start := BitVec.ofNat 32 start }) hb len
  have hcmd := storeReg_parse (s := withWindow s1 start len) hb hr
  rw [parseOnBlock, hwait, onNext_next, storeReg_start hb, onNext_next, hlen, onNext_next, hcmd, onNext_next]

/-- PARSE of a candidate `w` that stands in DATA at `start`: the block reports the record of `w`. -/
theorem parseOnBlock_next {s : State} (h : Inv s) {start : Nat} {w : List Byte} (hw : DataHolds s start w)
    (hfit : start + w.length ≤ s.cfg.bufBytes) (polls : Nat) :
    ∃ t, parseOnBlock polls start w.length s = .next t ∧ Inv t ∧ SameInput s t ∧ Reports (parseFrame w) t := by
  obtain ⟨s1, hwait, hb, hinv, hsame⟩ := waitIdle_next h polls
  obtain ⟨⟨_, _, hmax⟩, _⟩ := id h
  have hstart : (BitVec.ofNat 32 start).toNat = start := by
    rw [BitVec.toNat_ofNat, Nat.mod_eq_of_lt (by omega)]
  have hlen : (BitVec.ofNat 32 w.length).toNat = w.length := by
    rw [BitVec.toNat_ofNat, Nat.mod_eq_of_lt (by omega)]
  set s3 := withWindow s1 start w.length
  set c := sampleOperands .parse s3
  have hrange : windowInRange s3 = true := by
    refine decide_eq_true ?_
    change (BitVec.ofNat 32 start).toNat + (BitVec.ofNat 32 w.length).toNat ≤ s1.cfg.bufBytes
    rwa [hstart, hlen, hsame.cfg]
  have haccept : Inv (acceptCommand .parse s3) := inv_acceptCommand (inv_withWindow hinv hb _ _) fun _ => hrange
  obtain ⟨r, n, r', n', e⟩ := waitIdle_completing (s := acceptCommand .parse s3) (c := c) ⟨rfl, rfl⟩ polls
  set s4 := afterReads (acceptCommand .parse s3) r n
  have hinv4 : Inv s4 := haccept
  have hsame4 : SameInput s1 s4 := ⟨rfl, rfl, rfl, rfl⟩
  have hinv5 : Inv (completed c s4) := inv_completed hinv4 c
  have hwindow : window s4 c = w := by
    refine window_of_written hlen fun j hj => ?_
    change Memory.read s1.data ((BitVec.ofNat 32 start).toNat + j) = w[j]?
    rw [hstart, hsame.data]
    exact hw j hj
  have hreports : Reports (parseFrame w) (completed c s4) := by
    rw [completed_parse rfl, hwindow]
    exact reports_parsedState _ c s4
  refine ⟨_, (parseOnBlock_of_wait hwait hb hrange).trans e, afterReads_inv.2 hinv5, ?_,
    reports_afterReads hreports r' n'⟩
  exact ((hsame.trans hsame4).trans (sameInput_completed c s4)).trans (sameInput_afterReads _ r' n')

/-! ## What the host reads after a PARSE -/

/-- After a register read the host has its word, and nothing else has changed. -/
theorem loadReg_word (s : State) {off : Nat} {r : Reg} (h : regOffset r = off) : ∃ rs n,
    loadReg off s = .next (afterReads s rs n) ∧ lastRead (afterReads s rs n) = regWord s r := by
  subst h
  exact ⟨_, _, loadReg_afterReads s r, rfl⟩

theorem Reports.resultWord {o : ParseOut} {t : State} (h : Reports o t) :
    regWord t .result = (parseResultBits o.res).setWidth 32 := by
  rw [regWord, resultWord_idle h.busy, h.result]

theorem Reports.payloadSizeWord {o : ParseOut} {t : State} (h : Reports o t) :
    (regWord t .payloadSize).toNat = o.ps.toNat := by
  rw [regWord, resultWord_idle h.busy, h.payloadSize, BitVec.toNat_setWidth_of_le (by decide)]

theorem Reports.frameCounterWord {o : ParseOut} {t : State} (h : Reports o t) :
    (regWord t .frameCounter).setWidth 16 = o.fc := by
  rw [regWord, resultWord_idle h.busy, h.frameCounter, BitVec.setWidth_setWidth_of_le _ (by decide), BitVec.setWidth_eq]

theorem Reports.consumedWord {o : ParseOut} {t : State} (h : Reports o t) (ho : o.consumed < 2 ^ 17) :
    (regWord t .consumed).toNat = o.consumed := by
  rw [regWord, resultWord_idle h.busy, h.consumed, BitVec.toNat_setWidth_of_le (by decide), BitVec.toNat_ofNat,
    Nat.mod_eq_of_lt ho]

/-- On SUCCESS the host takes the frame and reads what it consumed. -/
theorem takeFrame_next {o : ParseOut} {t : State} (h : Reports o t) (ho : RecordOk o) (hs : o.res = .success) :
    ∃ r n, takeFrame t = .next ((o.fc, o.payload), afterReads t r n) ∧
      (lastRead (afterReads t r n)).toNat = o.consumed := by
  have hsize := o.ps.isLt
  have hlen := ho.payload hs
  have hcons : o.consumed < 2 ^ 17 := by
    rw [ho.consumed, if_pos hs]
    omega
  obtain ⟨r1, n1, e1, v1⟩ := loadReg_word t (off := 0x024) (r := .frameCounter) rfl
  have h1 := reports_afterReads h r1 n1
  obtain ⟨r2, n2, e2, v2⟩ := loadReg_word (afterReads t r1 n1) (off := 0x028) (r := .payloadSize) rfl
  have h2 := reports_afterReads h r2 n2
  obtain ⟨r3, n3, e3⟩ := loadBytes_payload h2.busy (by unfold maxPayloadSize; omega) (h2.payload hs)
  have h3 := reports_afterReads h r3 n3
  obtain ⟨r4, n4, e4, v4⟩ := loadReg_word (afterReads t r3 n3) (off := 0x034) (r := .consumed) rfl
  simp only [afterReads_afterReads] at e2 v2 e3 e4 v4
  refine ⟨r4, n4, ?_, by rw [v4, h3.consumedWord hcons]⟩
  rw [takeFrame, e1, onNext_next, e2, onNext_next, v2, h1.payloadSizeWord, ← hlen, e3, onNext_next, e4, onNext_next,
    v1, h.frameCounterWord]

/-! ## The simulation -/

/-- The host's copy of the rest of the stream is the rest of the stream. -/
theorem copyRest_next {stream : List Byte} {s : State} (h : Holding stream s) {pos : Nat} (hpos : pos ≤ stream.length) :
    ∃ r n, loadBytes (stream.length - pos) (0x20000 + pos) s = .next (stream.drop pos, afterReads s r n) := by
  have hfits := h.fits
  obtain ⟨⟨_, _, hmax⟩, _⟩ := h.inv
  have hcopy := loadBytes_data (h.drop pos) (by rw [List.length_drop]; omega) hmax
  rwa [List.length_drop] at hcopy

/-- The candidate at `pos`, parsed, and RESULT read: the code of the record the reference computes. -/
theorem parseCandidate_next {stream : List Byte} {s : State} (h : Holding stream s) {pos : Nat}
    (hpos : pos ≤ stream.length) (polls : Nat) :
    ∃ s1 s2, parseOnBlock polls pos (stream.length - pos) s = .next s1 ∧ loadReg 0x020 s1 = .next s2 ∧
      lastRead s2 = (parseResultBits (parseFrame (stream.drop pos)).res).setWidth 32 ∧
      Reports (parseFrame (stream.drop pos)) s2 ∧ Holding stream s2 ∧ SameInput s s2 := by
  have hfits := h.fits
  obtain ⟨s1, hparse, hinv, hsame, hreports⟩ := parseOnBlock_next h.inv (h.drop pos)
    (by rw [List.length_drop]; omega) polls
  rw [List.length_drop] at hparse
  obtain ⟨r, n, hload, hword⟩ := loadReg_word s1 (off := 0x020) (r := .result) rfl
  exact ⟨s1, _, hparse, hload, hword.trans hreports.resultWord, reports_afterReads hreports r n,
    holding_afterReads (h.of_sameInput hsame hinv) r n, hsame.trans (sameInput_afterReads s1 r n)⟩

/-- By induction on the iterations: the host finds the same candidate, reads the same RESULT and goes on from the same
position. -/
theorem scanBlockFrom_simulates (polls : Nat → Nat) (stream : List Byte) (fuel : Nat) : ∀ {pos : Nat} {s : State},
    Holding stream s → ∃ t, scanBlockFrom polls stream.length fuel pos s = .next (scanFrom fuel stream pos, t) ∧
      Inv t ∧ SameInput s t := by
  induction fuel with
  | zero => exact fun {pos s} h => ⟨s, rfl, h.inv, rfl, rfl, rfl, rfl⟩
  | succ fuel ih =>
    intro pos s h
    by_cases hend : stream.length ≤ pos
    · exact ⟨s, by rw [scanBlockFrom, if_pos hend, scanFrom_end hend], h.inv, rfl, rfl, rfl, rfl⟩
    obtain ⟨r, n, hcopy⟩ := copyRest_next h (Nat.le_of_not_le hend)
    have h1 := holding_afterReads h r n
    have hsame1 := sameInput_afterReads s r n
    rw [scanBlockFrom, if_neg hend, hcopy, onNext_next]
    cases hk : searchPreamble (stream.drop pos) with
    | none =>
      rw [scanFrom_notFound (Nat.lt_of_not_le hend) hk]
      exact ⟨_, rfl, h1.inv, hsame1⟩
    | some k =>
      have hfound := found_lt hk
      obtain ⟨_, s2, hparse, hload, hword, hreports, h2, hsame12⟩ :=
        parseCandidate_next h1 (show pos + k ≤ stream.length by omega) (polls fuel)
      have hsame2 := hsame1.trans hsame12
      simp only [hparse, onNext_next, hload, hword]
      set o := parseFrame (stream.drop (pos + k)) with ho
      rcases found_parse_cases hk ho.symm with hres | hres | ⟨hres, hfit⟩ | ⟨hres, _, _⟩ <;> rw [hres]
      · rw [scanFrom_insufficientData hk ho.symm fuel hres]
        exact ⟨_, rfl, h2.inv, hsame2⟩
      · rw [scanFrom_invalidHeaderCrc hk ho.symm fuel hres]
        obtain ⟨t, hrest, ht, hsamet⟩ := ih (pos := pos + k + 2) h2
        exact ⟨t, hrest, ht, hsame2.trans hsamet⟩
      · rw [scanFrom_invalidPayloadCrc hk ho.symm fuel hres hfit]
        obtain ⟨r3, n3, hload3, hword3⟩ := loadReg_word s2 (off := 0x028) (r := .payloadSize) rfl
        obtain ⟨t, hrest, ht, hsamet⟩ := ih (pos := pos + k + (10 + o.ps.toNat)) (holding_afterReads h2 r3 n3)
        refine ⟨t, ?_, ht, (hsame2.trans (sameInput_afterReads s2 r3 n3)).trans hsamet⟩
        change onNext (loadReg 0x028 s2) _ = _
        rw [hload3, onNext_next, hword3, hreports.payloadSizeWord, hrest]
      · rw [scanFrom_success hk ho.symm fuel hres]
        obtain ⟨r3, n3, htake, hconsumed⟩ := takeFrame_next hreports (recordOk_parseFrame _) hres
        obtain ⟨t, hrest, ht, hsamet⟩ := ih (pos := pos + k + o.consumed) (holding_afterReads h2 r3 n3)
        refine ⟨t, ?_, ht, (hsame2.trans (sameInput_afterReads s2 r3 n3)).trans hsamet⟩
        change onNext (takeFrame s2) _ = _
        rw [htake, onNext_next, hconsumed, hrest, onNext_next]

/-- Settles O58: the simulation from position 0, with the fuel the reference uses. -/
theorem blockScanAgreesWithReference : Obligations.BlockScanAgreesWithReference := by
  intro s data polls hinv hlen hheld
  obtain ⟨t, e, ht, hsame⟩ := scanBlockFrom_simulates polls data (data.length + 1) (pos := 0) ⟨hinv, hheld, hlen⟩
  exact ⟨t, e, ht, hsame.err, hsame.errcode, fun a => by rw [hsame.data]⟩

end Sys2Proof.Machine
end
